-- ==== Sys2Proof/Word.lean ====
section
/-! DEFINITION. The word types of VCSK-CORE. Bit 0 is the least significant bit (spec R12). -/

namespace Sys2Proof

/-- A command word or a response word: 32 bits, unsigned (R16, R59, R66). -/
abbrev Word := BitVec 32

/-- One byte of a word that a platform carries as bytes (R44). -/
abbrev Byte := BitVec 8

/-- A sample: 16 bits, read as two's complement (R9, R16). -/
abbrev Sample := BitVec 16

/-- The value of P4 (`reg4`): 4 stored bits (R25). -/
abbrev Reg4 := BitVec 4

/-- The value of P5 (`reg5`): 6 stored bits, bit 5 the bit shifted out of bit 4 (R26). -/
abbrev Reg5 := BitVec 6

/-- A channel index: the CORE's one address space, 0..31 (R40, R41). -/
abbrev ChannelIndex := Fin 32

end Sys2Proof
end

