-- ==== Sys2Proof/Config.lean ====
section
/-! DEFINITION. What an instance of VCSK-CORE fixes before it runs: the parameters of spec R10, R11 and R36. -/

namespace Sys2Proof

/-- DIV6_VARIANT: which divide-by-6 rule modes 12 to 15 apply (R88, conflict C1, decision D11). -/
inductive Div6Variant where
  /-- The source's formula verbatim: the spec's default. -/
  | asWritten
  /-- The formula without its outer NOT. -/
  | negatedFeedback
  /-- The twisted ring, which gives the pattern 000111. -/
  | twistedRing
  deriving DecidableEq, Repr

/-- The parameters a model takes (R10, R11; the table "Parameters a model takes" of 92_eei_decisions.md). -/
structure Params where
  /-- RESET_MODE: the mode every channel holds after reset (R11). -/
  resetMode : BitVec 4
  /-- RESET_DIVIDE: the divisor of each channel after reset (R10, R38). -/
  resetDivide : ChannelIndex → BitVec 5
  /-- RESET_VOLUME: the volume of every channel after reset (R10, R38). -/
  resetVolume : BitVec 16
  /-- DIV6_VARIANT (R88). -/
  div6Variant : Div6Variant
  /-- SAMPLE_RATE_HZ: informational, no rule reads it (R10, R176). -/
  sampleRateHz : Nat

/-- RESET_MODE of this machine: an OPEN parameter of the spec (R11, D12), so a constant nothing is known of.
DESIGN CHOICE, log 1: a claim about the reset state holds for every value of it. -/
opaque Config.resetMode : BitVec 4

/-- RESET_DIVIDE(i) = i (R10, R38, decision D12; log 3). -/
def Config.resetDivide (i : ChannelIndex) : BitVec 5 := BitVec.ofNat 5 i.val

/-- RESET_VOLUME = 0 (R10, R38, decision D12; log 3). -/
def Config.resetVolume : BitVec 16 := 0

/-- SAMPLE_RATE_HZ = 31400 (R10, R176, decision D20): the reference rate of the host, read by no rule. -/
def Config.sampleRateHz : Nat := 31400

/-- The parameters of this machine: the spec's decided defaults, and RESET_MODE left open. -/
def Config.params : Params where
  resetMode := Config.resetMode
  resetDivide := Config.resetDivide
  resetVolume := Config.resetVolume
  div6Variant := .asWritten
  sampleRateHz := Config.sampleRateHz

end Sys2Proof
end

