-- ==== Sys2Proof/Syntax.lean ====
section
/-! DEFINITION. The instructions of VCSK-CORE, one constructor per row of spec/opcode_table.json, the reasons for
which a request is refused, and the requests a host can issue. -/

namespace Sys2Proof

/-- The 20 rows of the opcode table (R55). The mode rows are the values of a channel's mode field, the WaveformEngine's
opcodes: their operand is the firing channel, which the machine selects (R80, R121). The command rows carry the operands of
the host's request as plain numbers; `WellFormed` says when they fit their fields (R142). -/
inductive Instr where
  /-- MODE0 (FILL1), R100. -/
  | mode0
  /-- MODE1 (POLY4), R101. -/
  | mode1
  /-- MODE2 (DIV31_POLY4), R102. -/
  | mode2
  /-- MODE3 (POLY5_POLY4), R103. -/
  | mode3
  /-- MODE4 (DIV2), R104. -/
  | mode4
  /-- MODE5 (DIV2, another value for MODE4's rule), R105. -/
  | mode5
  /-- MODE6 (DIV31_DIV2), R106. -/
  | mode6
  /-- MODE7 (POLY5_DIV2), R107. -/
  | mode7
  /-- MODE8 (POLY9), R108. -/
  | mode8
  /-- MODE9 (POLY5), R109. -/
  | mode9
  /-- MODE10 (DIV31_SHIFT), R110. -/
  | mode10
  /-- MODE11 (FILL1, another value for MODE0's rule), R111. -/
  | mode11
  /-- MODE12 (DIV6), R112. -/
  | mode12
  /-- MODE13 (DIV6, another value for MODE12's rule), R113. -/
  | mode13
  /-- MODE14 (DIV31_DIV6), R114. -/
  | mode14
  /-- MODE15 (POLY5_DIV6), R115. -/
  | mode15
  /-- NEXT_SAMPLE, R125. -/
  | nextSample
  /-- CONFIGURE ch, div, mode, vol, R70. -/
  | configure (ch div mode vol : Nat)
  /-- READ_CONFIG ch, R71. -/
  | readConfig (ch : Nat)
  /-- READ_AUDIBLE ch, R72. -/
  | readAudible (ch : Nat)
  deriving DecidableEq, Repr

/-- Why a request is refused (R142), in the order in which the first that applies is reported (R143). -/
inductive RefuseReason where
  | reservedBits
  | channelRange
  | divideRange
  | modeRange
  | volumeRange
  deriving DecidableEq, Repr

/-- What a host can issue: a raw command word (R59), or a request of the typed interface of R5 whose operands are plain
numbers that may not fit (R142, V-E17 to V-E19). -/
inductive Request where
  | word (w : Word)
  | nextSample
  | configure (ch div mode vol : Nat)
  | readConfig (ch : Nat)
  | readAudible (ch : Nat)
  deriving DecidableEq, Repr

/-- The two kinds of encoded value the CORE decodes (R55): a 4-bit mode field, a 32-bit command word. -/
inductive Encoded where
  | modeField (m : BitVec 4)
  | commandWord (w : Word)
  deriving DecidableEq, Repr

end Sys2Proof
end

