-- ==== Sys2Proof/WellFormed.lean ====
section
/-! DEFINITION. When an instruction's operands fit their fields (spec R142), and which reason is reported when they do
not (R143). -/

namespace Sys2Proof

/-- The first reason of R143's order for which the operands of `i` are refused, `none` when they all fit. -/
def Instr.check (i : Instr) : Option RefuseReason :=
  match i with
  | .mode0 => none
  | .mode1 => none
  | .mode2 => none
  | .mode3 => none
  | .mode4 => none
  | .mode5 => none
  | .mode6 => none
  | .mode7 => none
  | .mode8 => none
  | .mode9 => none
  | .mode10 => none
  | .mode11 => none
  | .mode12 => none
  | .mode13 => none
  | .mode14 => none
  | .mode15 => none
  | .nextSample => none
  | .configure ch div mode vol =>
    if 32 ≤ ch then some .channelRange
    else if 32 ≤ div then some .divideRange
    else if 16 ≤ mode then some .modeRange
    else if 65536 ≤ vol then some .volumeRange
    else none
  | .readConfig ch => if 32 ≤ ch then some .channelRange else none
  | .readAudible ch => if 32 ≤ ch then some .channelRange else none

/-- The operands of `i` fit their fields: 5-bit index, 5-bit divisor, 4-bit mode, 16-bit volume (R60, R70). -/
abbrev Instr.WellFormed (i : Instr) : Prop := i.check = none

end Sys2Proof
end

