-- ==== Sys2Proof/Decode.lean ====
section
/-! DEFINITION. Decoding and encoding: the 4-bit mode field (spec R56), the 32-bit command word (R59 to R67), and the bytes
a platform carries a word as (R44). -/

namespace Sys2Proof

/-! ### The mode field -/

/-- The instruction a mode field selects: all 16 values are defined (R56, R58), and no two are merged (R57). -/
def decodeMode (m : BitVec 4) : Instr :=
  match m.toNat with
  | 0 => .mode0
  | 1 => .mode1
  | 2 => .mode2
  | 3 => .mode3
  | 4 => .mode4
  | 5 => .mode5
  | 6 => .mode6
  | 7 => .mode7
  | 8 => .mode8
  | 9 => .mode9
  | 10 => .mode10
  | 11 => .mode11
  | 12 => .mode12
  | 13 => .mode13
  | 14 => .mode14
  | _ => .mode15

/-! ### The command word -/

/-- The op field, bits [31:30] (R59). -/
def opField (w : Word) : BitVec 2 := w.extractLsb' 30 2

/-- The channel field, bits [29:25] (R60, R62, R63). -/
def chField (w : Word) : BitVec 5 := w.extractLsb' 25 5

/-- The divisor field, bits [24:20] (R60). -/
def divField (w : Word) : BitVec 5 := w.extractLsb' 20 5

/-- The mode field of a CONFIGURE word, bits [19:16] (R60). -/
def modeField (w : Word) : BitVec 4 := w.extractLsb' 16 4

/-- The volume field, bits [15:0] (R60). -/
def volField (w : Word) : BitVec 16 := w.extractLsb' 0 16

/-- The decoding of a command word: a command, or `reservedBits` (R64, R67). Every field is taken as it stands (R65). -/
def decodeCommand (w : Word) : Except RefuseReason Instr :=
  if opField w = 0b00#2 then
    if w.extractLsb' 0 30 = 0 then .ok .nextSample else .error .reservedBits
  else if opField w = 0b01#2 then
    .ok (.configure (chField w).toNat (divField w).toNat (modeField w).toNat (volField w).toNat)
  else if w.extractLsb' 0 25 ≠ 0 then
    .error .reservedBits
  else if opField w = 0b10#2 then
    .ok (.readConfig (chField w).toNat)
  else
    .ok (.readAudible (chField w).toNat)

/-- Decoding either kind of encoded value (R55). -/
def decode (e : Encoded) : Except RefuseReason Instr :=
  match e with
  | .modeField m => .ok (decodeMode m)
  | .commandWord w => decodeCommand w

/-- A typed request is accepted when its operands fit, else refused with the first reason of R143's order. -/
def acceptTyped (i : Instr) : Except RefuseReason Instr :=
  match i.check with
  | none => .ok i
  | some r => .error r

/-- What a request asks for: the decoding of its word, or the typed command it names (R142). -/
def Request.decode (r : Request) : Except RefuseReason Instr :=
  match r with
  | .word w => decodeCommand w
  | .nextSample => acceptTyped .nextSample
  | .configure ch div mode vol => acceptTyped (.configure ch div mode vol)
  | .readConfig ch => acceptTyped (.readConfig ch)
  | .readAudible ch => acceptTyped (.readAudible ch)

/-- A request that is not refused: it spells a command whose operands fit (R142). -/
def Request.accepted (r : Request) : Bool :=
  match r.decode with
  | .ok _ => true
  | .error _ => false

/-! ### The encoder -/

/-- The CONFIGURE-format word of four field values (R60): also the response of READ_CONFIG (R66). -/
def configureWord (ch div : BitVec 5) (mode : BitVec 4) (vol : BitVec 16) : Word :=
  0b01#2 ++ ch ++ div ++ mode ++ vol

/-- A word of an op and a channel whose bits [24:0] are reserved and zero (R62, R63). -/
def channelWord (op : BitVec 2) (ch : BitVec 5) : Word :=
  op ++ ch ++ 0#25

/-- The encoding of an instruction whose operands fit their fields: the mode field of a mode (R56), the command word of a
command (R60 to R63). -/
def encode (i : Instr) : Encoded :=
  match i with
  | .mode0 => .modeField 0
  | .mode1 => .modeField 1
  | .mode2 => .modeField 2
  | .mode3 => .modeField 3
  | .mode4 => .modeField 4
  | .mode5 => .modeField 5
  | .mode6 => .modeField 6
  | .mode7 => .modeField 7
  | .mode8 => .modeField 8
  | .mode9 => .modeField 9
  | .mode10 => .modeField 10
  | .mode11 => .modeField 11
  | .mode12 => .modeField 12
  | .mode13 => .modeField 13
  | .mode14 => .modeField 14
  | .mode15 => .modeField 15
  | .nextSample => .commandWord 0x00000000
  | .configure ch div mode vol =>
    .commandWord (configureWord (BitVec.ofNat 5 ch) (BitVec.ofNat 5 div) (BitVec.ofNat 4 mode) (BitVec.ofNat 16 vol))
  | .readConfig ch => .commandWord (channelWord 0b10#2 (BitVec.ofNat 5 ch))
  | .readAudible ch => .commandWord (channelWord 0b11#2 (BitVec.ofNat 5 ch))

/-! ### Bytes -/

/-- The four bytes of a word, byte 0 holding bits [7:0] (R44, decision D15; log 9). -/
def wordBytes (w : Word) : List Byte :=
  [w.extractLsb' 0 8, w.extractLsb' 8 8, w.extractLsb' 16 8, w.extractLsb' 24 8]

/-- The word of four bytes, the first holding bits [7:0] (R44). -/
def wordOfBytes (b0 b1 b2 b3 : Byte) : Word := b3 ++ b2 ++ b1 ++ b0

/-- Reading one command from a stream of bytes: the decoding of its first word and the bytes after it, or `none` when
fewer than four bytes stand there, since no partial word is a command (R45). -/
def decodeBytes (bs : List Byte) : Option (Except RefuseReason Instr × List Byte) :=
  match bs with
  | b0 :: b1 :: b2 :: b3 :: rest => some (decodeCommand (wordOfBytes b0 b1 b2 b3), rest)
  | _ => none

/-- The instruction the decoder reads from a row of the opcode table whose bits are `w`: a mode field for the 4-bit rows
(one byte, its upper half zero), a command word laid out as four bytes for the 32-bit rows (log 10). -/
def decodeTableWord (nbits w : Nat) : Option Instr :=
  if nbits ≤ 8 then
    if w < 16 then (decode (.modeField (BitVec.ofNat 4 w))).toOption else none
  else
    match decodeBytes (wordBytes (BitVec.ofNat 32 w)) with
    | some (.ok i, _) => some i
    | _ => none

end Sys2Proof
end

