-- ==== Sys2Proof/Machine/State.lean ====
section
/-! DEFINITION. The state of VCSK-CORE (spec R20, R37), what it holds after reset (R38, R165), and the ways a step can
stop. -/

namespace Sys2Proof.Machine

/-- One channel record: the six fields of R20, each at its stored width. -/
structure Channel where
  /-- `divideSelect`, the configured divisor (R21). -/
  divide : BitVec 5
  /-- `waveformMode`, the channel's opcode (R22). -/
  mode : BitVec 4
  /-- `volume`, the weight of the audible bit (R23). -/
  volume : BitVec 16
  /-- `dividerCounter`, the progress toward the next firing event (R24). -/
  counter : BitVec 6
  /-- P4, whose bit 3 is the audible bit (R25, R28). -/
  reg4 : Reg4
  /-- P5, with the extension bit 5 (R26). -/
  reg5 : Reg5
  deriving DecidableEq, Repr

/-- The outcome of one request, as its caller sees it (R142, R178). -/
inductive CommandOutcome where
  /-- A response word (R66). -/
  | response (w : Word)
  /-- Completion with no response word (CONFIGURE, R66). -/
  | done
  /-- The request was refused (R142). -/
  | refused (r : RefuseReason)
  deriving DecidableEq, Repr

/-- One instance of the CORE. `channels` is the whole of the spec's state (R20, R37); the other fields are the model's own:
a parameter of the instance and the host's side of the interface (logs 2, 4, 5, 6). -/
structure State where
  /-- The 32 channel records (R20). -/
  channels : Vector Channel 32
  /-- DIV6_VARIANT of this instance (R36, R88); no step changes it (log 2). -/
  div6Variant : Div6Variant
  /-- The channel at which one firing event is about to be applied by itself, if any (R80, R121; log 6). -/
  firing : Option ChannelIndex
  /-- The requests the host has issued and the CORE has not executed yet, oldest first (R47; log 4). -/
  input : List Request
  /-- The outcomes reported so far, oldest first (R178; log 5). -/
  outcomes : List CommandOutcome
  deriving DecidableEq, Repr

/-- The CORE has no failure modes (R140, R141): there is no way for it to stop with a fault. -/
inductive Fault where
  deriving DecidableEq, Repr

/-- The ways a step can answer that it has no meaning. -/
inductive Refusal where
  /-- Raised by `exec` alone, for an instruction whose meaning is not written yet; safe. No arm raises it: every
  instruction has its meaning, and a request outside the contract is an outcome of a next state (R142, log 5). -/
  | notModelled (mnemonic : String)
  deriving DecidableEq, Repr

/-- Channel `i` right after reset (R38): the internal registers zeroed, the configuration as the parameters say. -/
def Channel.resetWith (p : Params) (i : ChannelIndex) : Channel where
  divide := p.resetDivide i
  mode := p.resetMode
  volume := p.resetVolume
  counter := 0
  reg4 := 0
  reg5 := 0

/-- An instance created with the parameters `p` (R165), with nothing issued and nothing reported yet. -/
def State.resetWith (p : Params) : State where
  channels := ⟨⟨(List.finRange 32).map (Channel.resetWith p)⟩, by simp⟩
  div6Variant := p.div6Variant
  firing := none
  input := []
  outcomes := []

/-- This machine right after reset (R165): the spec's decided parameters, RESET_MODE left open (log 1). -/
def State.reset : State := State.resetWith Config.params

end Sys2Proof.Machine
end

