-- ==== Sys2Proof/Machine/Operands.lean ====
section
/-! DEFINITION. The operands of the ChannelBank commands: numbers checked against their fields at the typed boundary
(spec R142, R143), in the order in which the reasons are reported. -/

namespace Sys2Proof.Machine

/-- A channel index operand: 0..31, else `channelRange` (R41, R142). -/
def channelOperand (ch : Nat) : Except RefuseReason ChannelIndex :=
  if h : ch < 32 then .ok ⟨ch, h⟩ else .error .channelRange

/-- A divisor operand: 0..31, else `divideRange` (R21, R142). -/
def divideOperand (div : Nat) : Except RefuseReason (BitVec 5) :=
  if div < 32 then .ok (BitVec.ofNat 5 div) else .error .divideRange

/-- A mode operand: 0..15, else `modeRange` (R58, R142). -/
def modeOperand (mode : Nat) : Except RefuseReason (BitVec 4) :=
  if mode < 16 then .ok (BitVec.ofNat 4 mode) else .error .modeRange

/-- A volume operand: 0..65535, else `volumeRange` (R23, R142). -/
def volumeOperand (vol : Nat) : Except RefuseReason (BitVec 16) :=
  if vol < 65536 then .ok (BitVec.ofNat 16 vol) else .error .volumeRange

/-- The operands of a CONFIGURE that fits its fields. -/
structure ConfigureOperands where
  ch : ChannelIndex
  divide : BitVec 5
  mode : BitVec 4
  volume : BitVec 16
  deriving DecidableEq, Repr

/-- The operands of CONFIGURE, or the first reason that applies in the order of R143. -/
def configureOperands (ch div mode vol : Nat) : Except RefuseReason ConfigureOperands := do
  let c ← channelOperand ch
  let d ← divideOperand div
  let m ← modeOperand mode
  let v ← volumeOperand vol
  return { ch := c, divide := d, mode := m, volume := v }

end Sys2Proof.Machine
end

