-- ==== Sys2Proof/Machine/Flags.lean ====
section
/-! DEFINITION. The CORE has no status flags (spec R31). What stands nearest to them is here: the audible bit (R28), the
firing condition (R121) and the two gates (R90, R91). None of them is stored. -/

namespace Sys2Proof.Machine

/-- The audible bit of a channel: bit 3 of `reg4` (R28). -/
def Channel.audible (c : Channel) : Bool := c.reg4.getLsbD 3

/-- The firing condition of R121, on the counter after this tick's update: the counter is 0 or `divide + 1`. -/
def Channel.fires (c : Channel) : Bool :=
  c.counter.toNat == 0 || c.counter.toNat == c.divide.toNat + 1

/-- GATE31, the div-31 gate: `(v & 0x0F) == 0x08` (R90, grouped as R14 says). -/
def gate31 (v : Reg5) : Bool := v &&& 0x0F == 0x08

/-- GATEB4, the bit-4 gate: `bit4(v) == 1` (R91). -/
def gateB4 (v : Reg5) : Bool := v.getLsbD 4

end Sys2Proof.Machine
end

