-- ==== Sys2Proof/Machine/Ops.lean ====
section
/-! DEFINITION. The named operations every meaning is written over: access to a channel record, answering the host, and the
shift-register primitives of spec R83 to R89. Taking an exception is not among them, because the CORE has none (R140, R144);
what takes its place is refusing a request (R142). -/

namespace Sys2Proof.Machine

/-! ### Channel records -/

/-- Channel `i`'s record (R20, R40). -/
def State.ch (s : State) (i : ChannelIndex) : Channel := s.channels[i]

/-- The state with channel `i`'s record replaced, every other channel unchanged (R73). -/
def State.setCh (s : State) (i : ChannelIndex) (c : Channel) : State :=
  { s with channels := s.channels.set i c }

/-- The state with `f` applied to every channel record by itself (R126, R135). -/
def State.mapCh (s : State) (f : Channel → Channel) : State :=
  { s with channels := ⟨⟨s.channels.toList.map f⟩, by simp⟩ }

/-! ### Answering the host -/

/-- The state with one more outcome reported (R178). -/
def State.report (s : State) (o : CommandOutcome) : State :=
  { s with outcomes := s.outcomes ++ [o] }

/-- `respond(v)`: the command's response word is returned to the host (R15, R66). -/
def State.respond (s : State) (w : Word) : State := s.report (.response w)

/-- Completion with no response word (R66). -/
def State.complete (s : State) : State := s.report .done

/-- `refuse(reason)`: the request is not executed and changes no channel; its caller is told the reason (R15, R142). -/
def State.refuse (s : State) (r : RefuseReason) : State := s.report (.refused r)

/-! ### Shift-register primitives -/

/-- `(r << 1) | x`, truncated to the register's width: SHIFTIN (R89), and the shape every step shares (R13). -/
def shiftIn (n : Nat) (r : BitVec n) (x : Bool) : BitVec n :=
  (r <<< 1) ||| (BitVec.ofBool x).setWidth n

/-- STEP4, the 4-bit LFSR step with taps 3 and 2 and the zero-lock injection (R83, R82). -/
def step4 (r4 : Reg4) : Reg4 :=
  if r4 &&& 0xF ≠ 0 then shiftIn 4 r4 (r4.getLsbD 3 ^^ r4.getLsbD 2) else 1

/-- STEP5, the 5-bit LFSR step with taps 4 and 2 and the zero-lock injection, written to 6 bits (R84, R82). -/
def step5 (r5 : Reg5) : Reg5 :=
  if r5 &&& 0x1F ≠ 0 then shiftIn 6 r5 (r5.getLsbD 4 ^^ r5.getLsbD 2) else 1

/-- STEP9, the joint 9-bit step of mode 8: P5 first, with the zero test over both registers, then P4 from the updated
P5's bit 5 (R85, R81). -/
def step9 (r4 : Reg4) (r5 : Reg5) : Reg4 × Reg5 :=
  let n5 : Reg5 :=
    if r5 &&& 0x1F ≠ 0 ∨ r4 &&& 0xF ≠ 0 then shiftIn 6 r5 (r4.getLsbD 3 ^^ r5.getLsbD 4) else 1
  (shiftIn 4 r4 (n5.getLsbD 5), n5)

/-- FILL1, the constant 1-fill (R86). -/
def fill1 (r4 : Reg4) : Reg4 := shiftIn 4 r4 true

/-- DIV2: shift left and shift in the complement of bit 0 (R87, conflict C4). -/
def div2 (r4 : Reg4) : Reg4 := shiftIn 4 r4 (!r4.getLsbD 0)

/-- DIV6 under each value of DIV6_VARIANT (R88, conflict C1). -/
def div6 (v : Div6Variant) (r4 : Reg4) : Reg4 :=
  match v with
  | .asWritten => shiftIn 4 (~~~r4) (!(!r4.getLsbD 2 && (r4 &&& 7) != 0))
  | .negatedFeedback => shiftIn 4 (~~~r4) (!r4.getLsbD 2 && (r4 &&& 7) != 0)
  | .twistedRing => shiftIn 4 r4 (!r4.getLsbD 2)

end Sys2Proof.Machine
end

