-- ==== Sys2Proof/Machine/ChannelBank.lean ====
section
/-! DEFINITION. The ChannelBank's three commands (spec R70 to R74). Each touches only the channel it names (R73). -/

namespace Sys2Proof.Machine

/-- A channel with its three configuration fields written and its counter and registers kept (R70, R52). -/
def Channel.configured (c : Channel) (divide : BitVec 5) (mode : BitVec 4) (volume : BitVec 16) : Channel :=
  { c with divide := divide, mode := mode, volume := volume }

/-- The response of READ_CONFIG: a CONFIGURE-format word of the channel's current configuration (R66, R71). -/
def configResponse (i : ChannelIndex) (c : Channel) : Word :=
  configureWord (BitVec.ofFin i) c.divide c.mode c.volume

/-- The response of READ_AUDIBLE: the audible bit in bit 0, zeros above (R66, R72). -/
def audibleResponse (c : Channel) : Word := (BitVec.ofBool c.audible).zeroExtend 32

/-- CONFIGURE (R70). Operands that do not fit are refused (R142). -/
def execConfigure (ch div mode vol : Nat) (s : State) : Host.Outcome State Fault Refusal :=
  match configureOperands ch div mode vol with
  | .ok o => .next (s.setCh o.ch ((s.ch o.ch).configured o.divide o.mode o.volume)).complete
  | .error r => .next (s.refuse r)

/-- READ_CONFIG (R71). An index that does not fit is refused (R142). -/
def execReadConfig (ch : Nat) (s : State) : Host.Outcome State Fault Refusal :=
  match channelOperand ch with
  | .ok i => .next (s.respond (configResponse i (s.ch i)))
  | .error r => .next (s.refuse r)

/-- READ_AUDIBLE (R72). An index that does not fit is refused (R142). -/
def execReadAudible (ch : Nat) (s : State) : Host.Outcome State Fault Refusal :=
  match channelOperand ch with
  | .ok i => .next (s.respond (audibleResponse (s.ch i)))
  | .error r => .next (s.refuse r)

end Sys2Proof.Machine
end

