-- ==== Sys2Proof/Machine/WaveformEngine.lean ====
section
/-! DEFINITION. The WaveformEngine (spec R80, R99): one rule and one meaning for each of the 16 mode values. Within a firing
P5 is updated first and P4 second, gates and shifted-in bits being read from the updated P5 (R81); a register that a rule
does not name keeps its value, bit 5 of P5 included, and a closed gate leaves P4 as it is (R92). -/

namespace Sys2Proof.Machine

/-! ### The sixteen rules, `(reg4, reg5) → (reg4', reg5')` -/

/-- MODE0: FILL1 (R100). -/
def mode0Rule (r4 : Reg4) (r5 : Reg5) : Reg4 × Reg5 := (fill1 r4, r5)

/-- MODE1: STEP4 (R101). -/
def mode1Rule (r4 : Reg4) (r5 : Reg5) : Reg4 × Reg5 := (step4 r4, r5)

/-- MODE2: STEP5; STEP4 behind the div-31 gate (R102). -/
def mode2Rule (r4 : Reg4) (r5 : Reg5) : Reg4 × Reg5 :=
  let n5 := step5 r5
  (if gate31 n5 then step4 r4 else r4, n5)

/-- MODE3: STEP5; STEP4 behind the bit-4 gate (R103). -/
def mode3Rule (r4 : Reg4) (r5 : Reg5) : Reg4 × Reg5 :=
  let n5 := step5 r5
  (if gateB4 n5 then step4 r4 else r4, n5)

/-- MODE4: DIV2 (R104). -/
def mode4Rule (r4 : Reg4) (r5 : Reg5) : Reg4 × Reg5 := (div2 r4, r5)

/-- MODE5: DIV2, the rule of MODE4 (R105). -/
def mode5Rule (r4 : Reg4) (r5 : Reg5) : Reg4 × Reg5 := (div2 r4, r5)

/-- MODE6: STEP5; DIV2 behind the div-31 gate (R106). -/
def mode6Rule (r4 : Reg4) (r5 : Reg5) : Reg4 × Reg5 :=
  let n5 := step5 r5
  (if gate31 n5 then div2 r4 else r4, n5)

/-- MODE7: STEP5; DIV2 behind the bit-4 gate (R107). -/
def mode7Rule (r4 : Reg4) (r5 : Reg5) : Reg4 × Reg5 :=
  let n5 := step5 r5
  (if gateB4 n5 then div2 r4 else r4, n5)

/-- MODE8: STEP9 (R108). -/
def mode8Rule (r4 : Reg4) (r5 : Reg5) : Reg4 × Reg5 := step9 r4 r5

/-- MODE9: STEP5; P4 shifts in the updated P5's bit 5 (R109). -/
def mode9Rule (r4 : Reg4) (r5 : Reg5) : Reg4 × Reg5 :=
  let n5 := step5 r5
  (shiftIn 4 r4 (n5.getLsbD 5), n5)

/-- MODE10: STEP5; behind the div-31 gate P4 shifts in the updated P5's bit 4 (R110). -/
def mode10Rule (r4 : Reg4) (r5 : Reg5) : Reg4 × Reg5 :=
  let n5 := step5 r5
  (if gate31 n5 then shiftIn 4 r4 (n5.getLsbD 4) else r4, n5)

/-- MODE11: FILL1, the rule of MODE0 (R111). -/
def mode11Rule (r4 : Reg4) (r5 : Reg5) : Reg4 × Reg5 := (fill1 r4, r5)

/-- MODE12: DIV6 (R112). -/
def mode12Rule (v : Div6Variant) (r4 : Reg4) (r5 : Reg5) : Reg4 × Reg5 := (div6 v r4, r5)

/-- MODE13: DIV6, the rule of MODE12 (R113). -/
def mode13Rule (v : Div6Variant) (r4 : Reg4) (r5 : Reg5) : Reg4 × Reg5 := (div6 v r4, r5)

/-- MODE14: STEP5; DIV6 behind the div-31 gate (R114). -/
def mode14Rule (v : Div6Variant) (r4 : Reg4) (r5 : Reg5) : Reg4 × Reg5 :=
  let n5 := step5 r5
  (if gate31 n5 then div6 v r4 else r4, n5)

/-- MODE15: STEP5; DIV6 behind the bit-4 gate (R115). -/
def mode15Rule (v : Div6Variant) (r4 : Reg4) (r5 : Reg5) : Reg4 × Reg5 :=
  let n5 := step5 r5
  (if gateB4 n5 then div6 v r4 else r4, n5)

/-! ### The dispatch -/

/-- `fire(mode, reg4, reg5)`: the 16-way mode dispatch (R80, R99). -/
def fire (v : Div6Variant) (mode : BitVec 4) (r4 : Reg4) (r5 : Reg5) : Reg4 × Reg5 :=
  match mode.toNat with
  | 0 => mode0Rule r4 r5
  | 1 => mode1Rule r4 r5
  | 2 => mode2Rule r4 r5
  | 3 => mode3Rule r4 r5
  | 4 => mode4Rule r4 r5
  | 5 => mode5Rule r4 r5
  | 6 => mode6Rule r4 r5
  | 7 => mode7Rule r4 r5
  | 8 => mode8Rule r4 r5
  | 9 => mode9Rule r4 r5
  | 10 => mode10Rule r4 r5
  | 11 => mode11Rule r4 r5
  | 12 => mode12Rule v r4 r5
  | 13 => mode13Rule v r4 r5
  | 14 => mode14Rule v r4 r5
  | _ => mode15Rule v r4 r5

/-- A channel with its two shift registers replaced, every other field kept: all that a firing writes (R80). -/
def Channel.withRegs (c : Channel) (p : Reg4 × Reg5) : Channel :=
  { c with reg4 := p.1, reg5 := p.2 }

/-- The firing event of a channel: the dispatch on its own mode and registers (R121). -/
def Channel.fire (v : Div6Variant) (c : Channel) : Channel :=
  c.withRegs (Machine.fire v c.mode c.reg4 c.reg5)

/-- One pending firing event is applied, exactly once, with the rule `f`: it writes the firing channel's `reg4` and `reg5`
and nothing else (R80, R121). Where no firing event is pending, nothing changes (R121; log 6). -/
def State.applyFiring (s : State) (f : Reg4 → Reg5 → Reg4 × Reg5) : State :=
  match s.firing with
  | none => s
  | some i =>
    let c := s.ch i
    { s.setCh i (c.withRegs (f c.reg4 c.reg5)) with firing := none }

/-! ### The sixteen meanings -/

/-- MODE0 (R100). -/
def execMode0 (s : State) : Host.Outcome State Fault Refusal := .next (s.applyFiring mode0Rule)

/-- MODE1 (R101). -/
def execMode1 (s : State) : Host.Outcome State Fault Refusal := .next (s.applyFiring mode1Rule)

/-- MODE2 (R102). -/
def execMode2 (s : State) : Host.Outcome State Fault Refusal := .next (s.applyFiring mode2Rule)

/-- MODE3 (R103). -/
def execMode3 (s : State) : Host.Outcome State Fault Refusal := .next (s.applyFiring mode3Rule)

/-- MODE4 (R104). -/
def execMode4 (s : State) : Host.Outcome State Fault Refusal := .next (s.applyFiring mode4Rule)

/-- MODE5 (R105). -/
def execMode5 (s : State) : Host.Outcome State Fault Refusal := .next (s.applyFiring mode5Rule)

/-- MODE6 (R106). -/
def execMode6 (s : State) : Host.Outcome State Fault Refusal := .next (s.applyFiring mode6Rule)

/-- MODE7 (R107). -/
def execMode7 (s : State) : Host.Outcome State Fault Refusal := .next (s.applyFiring mode7Rule)

/-- MODE8 (R108). -/
def execMode8 (s : State) : Host.Outcome State Fault Refusal := .next (s.applyFiring mode8Rule)

/-- MODE9 (R109). -/
def execMode9 (s : State) : Host.Outcome State Fault Refusal := .next (s.applyFiring mode9Rule)

/-- MODE10 (R110). -/
def execMode10 (s : State) : Host.Outcome State Fault Refusal := .next (s.applyFiring mode10Rule)

/-- MODE11 (R111). -/
def execMode11 (s : State) : Host.Outcome State Fault Refusal := .next (s.applyFiring mode11Rule)

/-- MODE12 (R112). -/
def execMode12 (s : State) : Host.Outcome State Fault Refusal := .next (s.applyFiring (mode12Rule s.div6Variant))

/-- MODE13 (R113). -/
def execMode13 (s : State) : Host.Outcome State Fault Refusal := .next (s.applyFiring (mode13Rule s.div6Variant))

/-- MODE14 (R114). -/
def execMode14 (s : State) : Host.Outcome State Fault Refusal := .next (s.applyFiring (mode14Rule s.div6Variant))

/-- MODE15 (R115). -/
def execMode15 (s : State) : Host.Outcome State Fault Refusal := .next (s.applyFiring (mode15Rule s.div6Variant))

end Sys2Proof.Machine
end

