-- ==== Sys2Proof/Machine/SampleClock.lean ====
section
/-! DEFINITION. The SampleClock and the Mixer: the NEXT_SAMPLE command (spec R120 to R131). -/

namespace Sys2Proof.Machine

/-- `divider_advance` (R120): the counter goes up by one, and back to 0 when it reaches or exceeds `2·divide + 2`. -/
def Channel.advanceDivider (c : Channel) : Channel :=
  let n := c.counter.toNat + 1
  { c with counter := if 2 * c.divide.toNat + 2 ≤ n then 0 else BitVec.ofNat 6 n }

/-- One tick of one channel (R125): its divider advances, and where the advanced channel fires (R121) the WaveformEngine is
applied exactly once. -/
def Channel.tick (v : Div6Variant) (c : Channel) : Channel :=
  let c' := c.advanceDivider
  if c'.fires then c'.fire v else c'

/-- What a channel adds to the sum: its volume where its audible bit is set, else 0 (R127). A volume of 0 adds 0 whatever
the registers hold (R130). -/
def Channel.contribution (c : Channel) : Nat :=
  if c.volume = 0 then 0 else if c.audible then c.volume.toNat else 0

/-- The mixer's exact sum over all 32 channels (R127). -/
def State.mixed (s : State) : Nat := (s.channels.toList.map Channel.contribution).sum

/-- `wrap16` (R15): the signed 16-bit value congruent to `n` modulo 65536. -/
def wrap16 (n : Nat) : Int :=
  if 32768 ≤ n % 65536 then (n % 65536 : Nat) - 65536 else (n % 65536 : Nat)

/-- The sample of an exact sum: the sum modulo 2^16, read as two's complement (R128). -/
def sampleOf (acc : Nat) : Sample := BitVec.ofNat 16 acc

/-- The response of NEXT_SAMPLE: the sample sign-extended to 32 bits (R66, R125). -/
def sampleResponse (acc : Nat) : Word := (sampleOf acc).signExtend 32

/-- The two bytes the capture writer stores for a sample, low byte first: the CORE's side of that boundary (R158). -/
def sampleBytes (x : Sample) : List Byte := [x.extractLsb' 0 8, x.extractLsb' 8 8]

/-- The CORE after every channel has been advanced by one tick (R125, R126). -/
def State.tickAll (s : State) : State := s.mapCh (Channel.tick s.div6Variant)

/-- NEXT_SAMPLE (R125): every channel is updated before the mixer reads any audible bit (R126). -/
def execNextSample (s : State) : Host.Outcome State Fault Refusal :=
  let t := s.tickAll
  .next (t.respond (sampleResponse t.mixed))

end Sys2Proof.Machine
end

