-- ==== Sys2Proof/Machine/Dispatch.lean ====
section
/-! DEFINITION. The meaning of every instruction, one arm per constructor. -/

namespace Sys2Proof.Machine

def exec (i : Instr) (s : State) : Host.Outcome State Fault Refusal :=
  match i with
  | .mode0 => Sys2Proof.Machine.execMode0 s
  | .mode1 => Sys2Proof.Machine.execMode1 s
  | .mode2 => Sys2Proof.Machine.execMode2 s
  | .mode3 => Sys2Proof.Machine.execMode3 s
  | .mode4 => Sys2Proof.Machine.execMode4 s
  | .mode5 => Sys2Proof.Machine.execMode5 s
  | .mode6 => Sys2Proof.Machine.execMode6 s
  | .mode7 => Sys2Proof.Machine.execMode7 s
  | .mode8 => Sys2Proof.Machine.execMode8 s
  | .mode9 => Sys2Proof.Machine.execMode9 s
  | .mode10 => Sys2Proof.Machine.execMode10 s
  | .mode11 => Sys2Proof.Machine.execMode11 s
  | .mode12 => Sys2Proof.Machine.execMode12 s
  | .mode13 => Sys2Proof.Machine.execMode13 s
  | .mode14 => Sys2Proof.Machine.execMode14 s
  | .mode15 => Sys2Proof.Machine.execMode15 s
  | .nextSample => Sys2Proof.Machine.execNextSample s
  | .configure ch div mode vol => Sys2Proof.Machine.execConfigure ch div mode vol s
  | .readConfig ch => Sys2Proof.Machine.execReadConfig ch s
  | .readAudible ch => Sys2Proof.Machine.execReadAudible ch s

end Sys2Proof.Machine
end

