-- ==== Sys2Proof/Machine/Fetch.lean ====
section
/-! DEFINITION. What the next step runs. The CORE has no program counter and runs no program (spec R32): it executes the
host's requests in the order they were issued (R47), and a pending firing event by the firing channel's mode field (R55). -/

namespace Sys2Proof.Machine

/-- What a step finds to do. -/
inductive Fetched where
  /-- An instruction, and the state it is executed in. -/
  | run (i : Instr) (s : State)
  /-- A request that is refused, and the state that refuses it. -/
  | refuse (r : RefuseReason) (s : State)
  /-- Nothing: no request is waiting. -/
  | idle

/-- The next thing to do: the pending firing event, dispatched on the mode field of its channel (R55, R99; log 6), else the
oldest waiting request, taken off the list (R47; log 4), else nothing (R35; log 8). -/
def State.fetch (s : State) : Fetched :=
  match s.firing with
  | some i => .run (decodeMode (s.ch i).mode) s
  | none =>
    match s.input with
    | [] => .idle
    | r :: rest =>
      match r.decode with
      | .ok i => .run i { s with input := rest }
      | .error e => .refuse e { s with input := rest }

/-- The state with a firing event pending at a channel whose mode field holds `m` (log 6). -/
def State.withFiring (s : State) (i : ChannelIndex) (m : BitVec 4) : State :=
  { s.setCh i { s.ch i with mode := m } with firing := some i }

/-- The state in which the host's next request is the command word `w` (log 4). -/
def State.withCommand (s : State) (w : Word) : State :=
  { s with firing := none, input := .word w :: s.input }

end Sys2Proof.Machine
end

