-- ==== Sys2Proof/Machine/Step.lean ====
section
/-! DEFINITION. One step of the CORE: one command, atomically (spec R47), or one pending firing event. -/

namespace Sys2Proof.Machine

/-- One step. A refused request changes nothing but the outcome its caller sees (R142); with nothing to do the state does
not change (R35, R162). -/
def step (s : State) : Host.Outcome State Fault Refusal :=
  match s.fetch with
  | .run i s' => exec i s'
  | .refuse r s' => .next (s'.refuse r)
  | .idle => .next s

/-- The state whose next step runs the opcode-table row with bits `w`: a 4-bit row is a mode field, put into channel 0 with
a firing event pending there (log 6); a 32-bit row is a command word, put in front of the waiting requests (log 4). -/
def State.withFetchWord (s : State) (nbits w : Nat) : State :=
  if nbits ≤ 8 then s.withFiring 0 (BitVec.ofNat 4 w) else s.withCommand (BitVec.ofNat 32 w)

end Sys2Proof.Machine
end

