-- ==== Sys2Proof/Machine/Assembler.lean ====
section
/-! DEFINITION. The assembler's text and its two pseudo-instructions (spec R68, R69, decision D17; log 12). -/

namespace Sys2Proof.Machine

/-- One line of a program: the four commands of R68 and the two pseudo-instructions of R69. -/
inductive AsmLine where
  | sample
  | cfg (ch div mode vol : Nat)
  | rdcfg (ch : Nat)
  | rdaud (ch : Nat)
  | run (n : Nat)
  | cfgall (div mode vol : Nat)
  deriving DecidableEq, Repr

/-- Why a line is no line of a program (R68, R69). -/
inductive AsmError where
  /-- The line's first word is none of the six names. -/
  | unknownName
  /-- The line does not have the operands its name takes. -/
  | operandCount
  /-- An operand is neither a decimal nor a `0x` number, nor a mode's name in a mode's place. -/
  | malformedOperand
  /-- An operand does not fit its field. -/
  | operandRange (r : RefuseReason)
  /-- `RUN 0`: R69 has n at least 1. -/
  | emptyRun
  deriving DecidableEq, Repr

/-- The commands a line stands for, in order (R68, R69). -/
def AsmLine.expand (l : AsmLine) : Except AsmError (List Instr) :=
  match l with
  | .sample => .ok [.nextSample]
  | .cfg ch div mode vol => .ok [.configure ch div mode vol]
  | .rdcfg ch => .ok [.readConfig ch]
  | .rdaud ch => .ok [.readAudible ch]
  | .run n => if n = 0 then .error .emptyRun else .ok (List.replicate n .nextSample)
  | .cfgall div mode vol => .ok ((List.range 32).map fun ch => .configure ch div mode vol)

/-- The command word of one command, or an assembly error where an operand does not fit its field (R68). -/
def assembleInstr (i : Instr) : Except AsmError Word :=
  match i.check, encode i with
  | some r, _ => .error (.operandRange r)
  | none, .commandWord w => .ok w
  | none, .modeField _ => .error .unknownName

/-- The command words of one line. -/
def AsmLine.assemble (l : AsmLine) : Except AsmError (List Word) := do
  (← l.expand).mapM assembleInstr

/-- The command words of a program, line by line. -/
def assembleProgram (ls : List AsmLine) : Except AsmError (List Word) := do
  return (← ls.mapM AsmLine.assemble).flatten

/-! ### Text -/

/-- A blank inside a line. -/
def isBlank (c : Char) : Bool := c == ' ' || c == '\t' || c == '\r'

/-- A piece of text without the blanks at its two ends. -/
def trimBlanks (cs : List Char) : List Char :=
  ((cs.dropWhile isBlank).reverse.dropWhile isBlank).reverse

/-- The value of a digit in a base of at most 16. -/
def digitValue (base : Nat) (c : Char) : Option Nat :=
  let n := c.toNat
  let v := if 48 ≤ n ∧ n ≤ 57 then some (n - 48)
    else if 97 ≤ n ∧ n ≤ 102 then some (n - 87)
    else if 65 ≤ n ∧ n ≤ 70 then some (n - 55)
    else none
  v.filter (· < base)

/-- The value of a non-empty string of digits. -/
def digitsValue (base : Nat) (cs : List Char) : Option Nat :=
  if cs.isEmpty then none
  else cs.foldl (fun acc c => acc.bind fun a => (digitValue base c).map fun d => a * base + d) (some 0)

/-- An operand: decimal, or hexadecimal after `0x` (R68). -/
def numberOperand (cs : List Char) : Except AsmError Nat :=
  let v := match cs with
    | '0' :: 'x' :: hex => digitsValue 16 hex
    | _ => digitsValue 10 cs
  match v with
  | some n => .ok n
  | none => .error .malformedOperand

/-- The names `MODE0` .. `MODE15` and the values they spell (R68). -/
def modeNames : List (List Char × Nat) :=
  [("MODE0".toList, 0), ("MODE1".toList, 1), ("MODE2".toList, 2), ("MODE3".toList, 3), ("MODE4".toList, 4),
   ("MODE5".toList, 5), ("MODE6".toList, 6), ("MODE7".toList, 7), ("MODE8".toList, 8), ("MODE9".toList, 9),
   ("MODE10".toList, 10), ("MODE11".toList, 11), ("MODE12".toList, 12), ("MODE13".toList, 13), ("MODE14".toList, 14),
   ("MODE15".toList, 15)]

/-- The mode operand of CFG and CFGALL: a number, or a mode's name (R68). -/
def modeNameOperand (cs : List Char) : Except AsmError Nat :=
  match modeNames.lookup cs with
  | some n => .ok n
  | none => numberOperand cs

/-- The line its name and operands spell (R68, R69). -/
def lineOf (name : List Char) (operands : List (List Char)) : Except AsmError AsmLine :=
  if name = "SAMPLE".toList then
    match operands with
    | [] => .ok .sample
    | _ => .error .operandCount
  else if name = "CFG".toList then
    match operands with
    | [c, d, m, v] => do
      return .cfg (← numberOperand c) (← numberOperand d) (← modeNameOperand m) (← numberOperand v)
    | _ => .error .operandCount
  else if name = "RDCFG".toList then
    match operands with
    | [c] => do return .rdcfg (← numberOperand c)
    | _ => .error .operandCount
  else if name = "RDAUD".toList then
    match operands with
    | [c] => do return .rdaud (← numberOperand c)
    | _ => .error .operandCount
  else if name = "RUN".toList then
    match operands with
    | [n] => do return .run (← numberOperand n)
    | _ => .error .operandCount
  else if name = "CFGALL".toList then
    match operands with
    | [d, m, v] => do return .cfgall (← numberOperand d) (← modeNameOperand m) (← numberOperand v)
    | _ => .error .operandCount
  else .error .unknownName

/-- One line of text: `;` starts a comment, and a line with nothing before it spells no command (R68). -/
def parseLine (cs : List Char) : Except AsmError (Option AsmLine) :=
  let body := trimBlanks (cs.takeWhile (· != ';'))
  if body.isEmpty then .ok none
  else
    let name := body.takeWhile (fun c => !isBlank c)
    let rest := trimBlanks (body.drop name.length)
    let operands := if rest.isEmpty then [] else (rest.splitOn ',').map trimBlanks
    (lineOf name operands).map some

/-- The program a text spells: one command per line (R68). -/
def parseProgram (cs : List Char) : Except AsmError (List AsmLine) := do
  return (← (cs.splitOn '\n').mapM parseLine).filterMap id

/-- The command words a text assembles to. -/
def assembleText (cs : List Char) : Except AsmError (List Word) := do
  assembleProgram (← parseProgram cs)

end Sys2Proof.Machine
end

