-- ==== Sys2Proof/Safety.lean ====
section
/-! DEFINITION. The terms in which claims speak of runs (spec R178): issuing requests, running them, and the relations
between states that the noninterference claims use. A run is safe when it completes; the spec says every run does (R140,
R164). -/

namespace Sys2Proof.Machine

/-- `n` steps, stopping at the first fault or refusal. -/
def runSteps (n : Nat) (s : State) : Host.Outcome State Fault Refusal :=
  match n with
  | 0 => .next s
  | k + 1 =>
    match step s with
    | .next t => runSteps k t
    | .fault r => .fault r
    | .refused r => .refused r

/-- A state between commands in which nothing is waiting: where a run of R178 starts and ends. -/
def State.Ready (s : State) : Prop := s.firing = none ∧ s.input = []

/-- The state with the host's requests issued behind those already waiting (R47). -/
def State.issue (s : State) (rs : List Request) : State := { s with input := s.input ++ rs }

/-- A run (R178): the requests `rs` are issued to `s` and one step is taken for each. -/
def runRequests (s : State) (rs : List Request) : Host.Outcome State Fault Refusal :=
  runSteps rs.length (s.issue rs)

/-- The outcome of a request that was refused (R142). -/
def CommandOutcome.isRefused (o : CommandOutcome) : Bool :=
  match o with
  | .refused _ => true
  | _ => false

/-- Every counter is in `[0, 2·divide + 1]` (R24). -/
def State.CountersInRange (s : State) : Prop :=
  ∀ i, (s.ch i).counter.toNat ≤ 2 * (s.ch i).divide.toNat + 1

/-- `t` has the parameter, the pending firing and the waiting requests of `s`. -/
def State.SameInterface (s t : State) : Prop :=
  t.div6Variant = s.div6Variant ∧ t.firing = s.firing ∧ t.input = s.input

/-- Two channel records that hold the same configuration (R20). -/
def Channel.SameConfig (c d : Channel) : Prop :=
  c.divide = d.divide ∧ c.mode = d.mode ∧ c.volume = d.volume

/-- Two channel records that hold the same internal registers (R34). -/
def Channel.SameInternal (c d : Channel) : Prop :=
  c.counter = d.counter ∧ c.reg4 = d.reg4 ∧ c.reg5 = d.reg5

/-- Two channel records that differ at most in bit 5 of `reg5` (R26, R119). -/
def Channel.SameButExtension (c d : Channel) : Prop :=
  c.SameConfig d ∧ c.counter = d.counter ∧ c.reg4 = d.reg4 ∧ c.reg5 &&& 0x1F = d.reg5 &&& 0x1F

/-- Two states that agree at every channel but those silent in both: volume 0 (R130, R170). -/
def State.AgreeWhereHeard (s t : State) : Prop :=
  s.div6Variant = t.div6Variant ∧ ∀ i, s.ch i = t.ch i ∨ ((s.ch i).volume = 0 ∧ (t.ch i).volume = 0)

/-- Executing `i` with a firing event pending at a channel completes, replaces that channel's `reg4` and `reg5` by what
`rule` gives of their old values, consumes the event, and changes nothing else: no other field of the channel, no other
channel, no outcome (R80, R92, R121). -/
def FiresAs (i : Instr) (rule : Div6Variant → Reg4 → Reg5 → Reg4 × Reg5) : Prop :=
  ∀ (s : State) (c : ChannelIndex), s.firing = some c →
    ∃ t, exec i s = .next t ∧
      ((t.ch c).reg4, (t.ch c).reg5) = rule s.div6Variant (s.ch c).reg4 (s.ch c).reg5 ∧
      (t.ch c).SameConfig (s.ch c) ∧ (t.ch c).counter = (s.ch c).counter ∧
      (∀ d, d ≠ c → t.ch d = s.ch d) ∧
      t.firing = none ∧ t.div6Variant = s.div6Variant ∧ t.input = s.input ∧ t.outcomes = s.outcomes

/-- In every NEXT_SAMPLE, a channel whose mode field is `m` and which fires in that tick (its counter after the update is 0
or `divide + 1`, R121) gets the registers that `rule` gives of its old ones, and one that does not fire keeps its registers. -/
def NextSampleApplies (m : BitVec 4) (rule : Div6Variant → Reg4 → Reg5 → Reg4 × Reg5) : Prop :=
  ∀ (s : State) (c : ChannelIndex), (s.ch c).mode = m →
    ∃ t, exec .nextSample s = .next t ∧
      ((t.ch c).reg4, (t.ch c).reg5) =
        if (t.ch c).counter = 0 ∨ (t.ch c).counter.toNat = (s.ch c).divide.toNat + 1 then
          rule s.div6Variant (s.ch c).reg4 (s.ch c).reg5
        else ((s.ch c).reg4, (s.ch c).reg5)

/-- `n` firings in a row of one channel under one rule. -/
def firings (rule : Reg4 → Reg5 → Reg4 × Reg5) (n : Nat) (p : Reg4 × Reg5) : Reg4 × Reg5 :=
  (fun q => rule q.1 q.2)^[n] p

/-- The audible bit of a value of P4 (R28). -/
def audibleOf (r4 : Reg4) : Bool := r4.getLsbD 3

/-- The joint 9-bit value of mode 8, `(reg4 << 5) | (reg5 & 0x1F)` (R93, R95). -/
def jointValue (p : Reg4 × Reg5) : Nat := p.1.toNat * 32 + p.2.toNat % 32

/-- At how many of the next 31 firings a gate, tested on the updated P5, is open (R96). -/
def opensIn31 (gate : Reg5 → Bool) (r5 : Reg5) : Nat :=
  ((List.range 31).filter fun n => gate (step5^[n + 1] r5)).length

/-- READ_CONFIG of any channel whose mode field is `m` completes and shows `m` in bits [19:16] of its response: a mode value
that has another's rule is returned as written (R57, R71). -/
def ReadConfigShowsMode (m : BitVec 4) : Prop :=
  ∀ (s : State) (c : ChannelIndex), (s.ch c).mode = m →
    ∃ t w, exec (.readConfig c.val) s = .next t ∧ t.outcomes = s.outcomes ++ [.response w] ∧ modeField w = m

/-- A text that writes the number `n` as R68 has it: in decimal, or in hexadecimal behind `0x`. -/
def SpellsNumber (t : List Char) (n : Nat) : Prop :=
  t = Nat.toDigits 10 n ∨ t = '0' :: 'x' :: Nat.toDigits 16 n

/-- A text that writes the mode `m` as R68 has it: as a number, or as one of the names `MODE0` to `MODE15`. -/
def SpellsMode (t : List Char) (m : Nat) : Prop :=
  SpellsNumber t m ∨ (m < 16 ∧ t = "MODE".toList ++ Nat.toDigits 10 m)

/-- A line of text: a name and, where it has operands, a blank and the operands with `", "` between them (R68; log 12). -/
def lineText (name : List Char) (operands : List (List Char)) : List Char :=
  match operands with
  | [] => name
  | _ => name ++ " ".toList ++ ", ".toList.intercalate operands

end Sys2Proof.Machine
end

