-- ==== Sys2Proof/Certificates/Slice0/Obligations.lean ====
section
/-! DEFINITION. The statements for the provers, in the order of the spec's files. A statement over all states holds for every
value of DIV6_VARIANT, which State carries (log 2). -/

open Sys2Proof Sys2Proof.Machine

/-! ### Encoding (30_encoding.md) -/

/-- Decoding the encoding of a well-formed instruction gives it back, for all 20 rows and every operand (R56, R60 to R63). -/
def Obligations.DecodeEncodeRoundTrip : Prop :=
  ∀ i : Instr, i.WellFormed → decode (encode i) = .ok i

/-- An encoded value that decodes is the encoding of what it decodes to, and that is well formed: no two values decode to
one instruction, so no alias mode is merged with its partner (R57, R67). -/
def Obligations.EncodeDecodeRoundTrip : Prop :=
  ∀ (e : Encoded) (i : Instr), decode e = .ok i → i.WellFormed ∧ encode i = e

/-- R67's decoder, written on the numbers: the op is bits [31:30], and the reserved bits decide (R61 to R64). -/
def Obligations.CommandWordDecodeTotal : Prop :=
  ∀ w : Word,
    let n := w.toNat
    decodeCommand w =
      if n / 2 ^ 30 = 0 then
        if n % 2 ^ 30 ≠ 0 then .error .reservedBits else .ok .nextSample
      else if n / 2 ^ 30 = 1 then
        .ok (.configure (n / 2 ^ 25 % 2 ^ 5) (n / 2 ^ 20 % 2 ^ 5) (n / 2 ^ 16 % 2 ^ 4) (n % 2 ^ 16))
      else if n % 2 ^ 25 ≠ 0 then .error .reservedBits
      else if n / 2 ^ 30 = 2 then .ok (.readConfig (n / 2 ^ 25 % 2 ^ 5))
      else .ok (.readAudible (n / 2 ^ 25 % 2 ^ 5))

/-- Words written out from the spec's formats decode to what they stand for (R60 to R63, V-E1 to V-E13). -/
def Obligations.WrittenWordsDecode : Prop :=
  decodeCommand 0x00000000 = .ok .nextSample ∧
  decodeCommand 0b01000000000000010000001111101000 = .ok (.configure 0 0 1 1000) ∧
  decodeCommand 0b01000111111101000000010010110000 = .ok (.configure 3 31 4 1200) ∧
  decodeCommand 0b10000110000000000000000000000000 = .ok (.readConfig 3) ∧
  decodeCommand 0b11111110000000000000000000000000 = .ok (.readAudible 31) ∧
  decodeCommand 0x00000001 = .error .reservedBits ∧
  decodeCommand 0xC7000000 = .error .reservedBits ∧
  decode (.modeField 0b1000) = .ok .mode8

/-- A word of little-endian bytes is read back whole, and the bytes behind it are left (R44, R45; log 9). -/
def Obligations.CommandBytesLittleEndian : Prop :=
  (∀ (w : Word) (rest : List Byte), decodeBytes (wordBytes w ++ rest) = some (decodeCommand w, rest)) ∧
  (∀ w : Word, ∀ k < 4, ((wordBytes w)[k]?).map BitVec.toNat = some (w.toNat / 256 ^ k % 256)) ∧
  (∀ bs : List Byte, bs.length < 4 → decodeBytes bs = none)

/-- A line of text, in each of the six forms of R68 and R69, with its numbers in decimal or behind `0x`, a mode also by its
name and any comment, reads as the line it spells, and a line of another name is an error; the four lines of R68 stand for
NEXT_SAMPLE, CONFIGURE, READ_CONFIG and READ_AUDIBLE, RUN n for n of SAMPLE with n at least 1, CFGALL for CFG 0 to CFG 31 in
order; and a line's words decode to the commands it stands for, or the line is an error where an operand does not fit. The
blanks and capitals of a line, and that RUN 0 is an error, are the model's choice, log 12. -/
def Obligations.AssembledWordsDecode : Prop :=
  (∀ (c d m v : List Char) (ch div mode vol : Nat),
    SpellsNumber c ch → SpellsNumber d div → SpellsMode m mode → SpellsNumber v vol →
    parseLine (lineText "SAMPLE".toList []) = .ok (some .sample) ∧
    parseLine (lineText "CFG".toList [c, d, m, v]) = .ok (some (.cfg ch div mode vol)) ∧
    parseLine (lineText "RDCFG".toList [c]) = .ok (some (.rdcfg ch)) ∧
    parseLine (lineText "RDAUD".toList [c]) = .ok (some (.rdaud ch)) ∧
    parseLine (lineText "RUN".toList [v]) = .ok (some (.run vol)) ∧
    parseLine (lineText "CFGALL".toList [d, m, v]) = .ok (some (.cfgall div mode vol))) ∧
  (∀ line comment : List Char, parseLine (line ++ ';' :: comment) = parseLine line) ∧
  (∀ (name : List Char) (operands : List (List Char)),
    name ∉ ["SAMPLE", "CFG", "RDCFG", "RDAUD", "RUN", "CFGALL"].map String.toList →
    lineOf name operands = .error .unknownName) ∧
  AsmLine.sample.expand = .ok [.nextSample] ∧
  (∀ ch div mode vol : Nat, (AsmLine.cfg ch div mode vol).expand = .ok [.configure ch div mode vol]) ∧
  (∀ ch : Nat, (AsmLine.rdcfg ch).expand = .ok [.readConfig ch]) ∧
  (∀ ch : Nat, (AsmLine.rdaud ch).expand = .ok [.readAudible ch]) ∧
  (∀ (l : AsmLine) (is : List Instr), l.expand = .ok is → (∀ i ∈ is, i.WellFormed) →
    ∃ ws, l.assemble = .ok ws ∧ ws.map decodeCommand = is.map Except.ok) ∧
  (∀ (l : AsmLine) (is : List Instr), l.expand = .ok is → (∃ i ∈ is, ¬ i.WellFormed) →
    ∃ r, l.assemble = .error (.operandRange r)) ∧
  (∀ n, 1 ≤ n → (AsmLine.run n).assemble = .ok (List.replicate n 0)) ∧
  ((AsmLine.run 0).assemble = .error .emptyRun) ∧
  (∀ div mode vol, ∃ is, (AsmLine.cfgall div mode vol).expand = .ok is ∧ is.length = 32 ∧
    ∀ k < 32, is[k]? = some (.configure k div mode vol))

/-! ### Steps, requests and runs (20_memory.md, 60_exceptions.md, 70_reset_and_hazards.md) -/

/-- When the oldest waiting request decodes to an instruction, that instruction is well formed and the step is its meaning,
in the state with the request taken off the list. -/
def Obligations.StepRunsDecodedRequest : Prop :=
  ∀ (s : State) (r : Request) (rest : List Request) (i : Instr),
    s.firing = none → s.input = r :: rest → r.decode = .ok i →
    i.WellFormed ∧ step s = exec i { s with input := rest }

/-- When a firing event is pending at a channel, the step is the meaning of the mode its mode field decodes to (log 6: the
model's own way to run one firing by itself). With nothing waiting and no firing event pending, a step changes nothing:
between two commands the state does not change (R35; that such a step exists at all is the model's choice, log 8). -/
def Obligations.StepWithoutRequest : Prop :=
  (∀ (s : State) (c : ChannelIndex) (i : Instr), s.firing = some c → decode (.modeField (s.ch c).mode) = .ok i →
    step s = exec i s) ∧
  (∀ s : State, s.firing = none → s.input = [] → step s = .next s)

/-- Every command whose operands fit, applied to any state, completes and gives the response that R66 has for it: the signed
sample, completion alone, the CONFIGURE-format word of the channel, the audible bit; and there is no cause of an exception
(R140, R66). The rest is said in the model's own forms: every instruction completes in every state, a mode run by itself
(log 6) and operands that do not fit (log 11) included; a command reports exactly one outcome; and every step that takes a
request and every run of requests completes, where a refused request is a next state too (R142, R164; log 5). -/
def Obligations.EveryCommandCompletes : Prop :=
  (∀ s : State,
    (∃ t w, exec .nextSample s = .next t ∧ t.outcomes = s.outcomes ++ [.response w] ∧ w.toInt = wrap16 t.mixed) ∧
    (∀ ch div mode vol : Nat, ch < 32 → div < 32 → mode < 16 → vol < 65536 →
      ∃ t, exec (.configure ch div mode vol) s = .next t ∧ t.outcomes = s.outcomes ++ [.done]) ∧
    (∀ c : ChannelIndex, ∃ t w, exec (.readConfig c.val) s = .next t ∧ t.outcomes = s.outcomes ++ [.response w] ∧
      decodeCommand w =
        .ok (.configure c.val (s.ch c).divide.toNat (s.ch c).mode.toNat (s.ch c).volume.toNat)) ∧
    (∀ c : ChannelIndex, ∃ t, exec (.readAudible c.val) s = .next t ∧
      t.outcomes = s.outcomes ++ [.response (if (s.ch c).reg4.getLsbD 3 then 1 else 0)])) ∧
  (∀ _f : Fault, False) ∧
  (∀ (i : Instr) (s : State), ∃ t, exec i s = .next t) ∧
  (∀ (i : Instr) (s : State), (∀ m, i ≠ decodeMode m) →
    ∃ t o, exec i s = .next t ∧ t.outcomes = s.outcomes ++ [o] ∧ (i.WellFormed → o.isRefused = false)) ∧
  (∀ s : State, s.firing = none → s.input ≠ [] → ∃ t, step s = .next t) ∧
  (∀ (s : State) (rs : List Request), s.Ready → ∃ t, runRequests s rs = .next t)

/-- Between commands no firing event is pending, and every step keeps it so; the parameter stays, the outcomes reported so
far stay in front, and each request taken reports exactly one outcome (R146, R178; logs 2, 4, 5, 6). -/
def Obligations.StepKeepsBetweenCommands : Prop :=
  ∀ s t : State, s.firing = none → step s = .next t →
    t.firing = none ∧ t.div6Variant = s.div6Variant ∧
    (∃ os, t.outcomes = s.outcomes ++ os) ∧
    t.input.length = s.input.length - 1 ∧
    t.outcomes.length + t.input.length = s.outcomes.length + s.input.length

/-- A refused request is not executed, changes no channel, and tells its caller its reason, once; the next request is
unaffected by it (R142). -/
def Obligations.RefusedRequestChangesNothing : Prop :=
  ∀ (s : State) (r : Request) (rest : List Request) (e : RefuseReason),
    s.firing = none → s.input = r :: rest → r.decode = .error e →
    ∃ t, step s = .next t ∧ t.channels = s.channels ∧ t.firing = none ∧ t.div6Variant = s.div6Variant ∧
      t.input = rest ∧ t.outcomes = s.outcomes ++ [.refused e]

/-- A typed request is refused with the first reason of R143's order that applies, and accepted when none does; a raw word
is refused only for its reserved bits; and executing a command whose operands do not fit reports the same reason and changes
nothing else (R142, R143; log 11). -/
def Obligations.RefusalReasonOrder : Prop :=
  (∀ ch div mode vol : Nat, (Request.configure ch div mode vol).decode =
    if 31 < ch then .error .channelRange
    else if 31 < div then .error .divideRange
    else if 15 < mode then .error .modeRange
    else if 65535 < vol then .error .volumeRange
    else .ok (.configure ch div mode vol)) ∧
  (∀ ch : Nat, (Request.readConfig ch).decode = if 31 < ch then .error .channelRange else .ok (.readConfig ch)) ∧
  (∀ ch : Nat, (Request.readAudible ch).decode = if 31 < ch then .error .channelRange else .ok (.readAudible ch)) ∧
  Request.nextSample.decode = .ok .nextSample ∧
  (∀ (w : Word) (e : RefuseReason), (Request.word w).decode = .error e → e = .reservedBits) ∧
  (∀ (i : Instr) (e : RefuseReason) (s : State), i.check = some e →
    ∃ t, exec i s = .next t ∧ t.channels = s.channels ∧ s.SameInterface t ∧
      t.outcomes = s.outcomes ++ [.refused e])

/-- Leaving the refused requests out of a run leaves every channel's end state and every other outcome as they were: a
refused request gives no response to any later command either (R142). -/
def Obligations.RefusedRequestsTransparent : Prop :=
  ∀ (s : State) (rs : List Request), s.Ready →
    ∃ t u, runRequests s rs = .next t ∧ runRequests s (rs.filter Request.accepted) = .next u ∧
      u.channels = t.channels ∧
      ∃ os, t.outcomes = s.outcomes ++ os ∧ u.outcomes = s.outcomes ++ os.filter (fun o => !o.isRefused)

/-- A run's final state is the start state of any continuation, and a run of n requests from a state between commands
reports n outcomes and leaves such a state (R178, R179). -/
def Obligations.RunsCompose : Prop :=
  ∀ (s : State) (as bs : List Request), s.Ready →
    ∃ t u, runRequests s as = .next t ∧ t.Ready ∧ t.outcomes.length = s.outcomes.length + as.length ∧
      runRequests t bs = .next u ∧ runRequests s (as ++ bs) = .next u

/-- Right after reset, whatever the parameters, the internal registers are 0 and the configuration is what the parameters
say; in this machine divide is the channel's index and volume 0 (R38, R165; no value is claimed for RESET_MODE, R11). -/
def Obligations.ResetValues : Prop :=
  (∀ (p : Params) (i : ChannelIndex),
    (State.resetWith p).ch i =
      { divide := p.resetDivide i, mode := p.resetMode, volume := p.resetVolume, counter := 0, reg4 := 0, reg5 := 0 }) ∧
  (∀ i : ChannelIndex, (State.reset.ch i).divide.toNat = i.val ∧ (State.reset.ch i).volume = 0 ∧
    (State.reset.ch i).counter = 0 ∧ (State.reset.ch i).reg4 = 0 ∧ (State.reset.ch i).reg5 = 0) ∧
  (∀ i j : ChannelIndex, (State.reset.ch i).mode = (State.reset.ch j).mode)

/-- The reset state is between commands, with its counters in range and nothing reported, and it holds DIV6_VARIANT as the
parameters give it, AS_WRITTEN in this machine (R10, R88; the invariants of StepKeepsBetweenCommands and CounterRangeKept
hold there). That a state holds the parameter, a pending firing, waiting requests and outcomes is the model's choice, logs
2, 4, 5 and 6. -/
def Obligations.ResetMeetsInvariants : Prop :=
  State.reset.Ready ∧ State.reset.outcomes = [] ∧ State.reset.CountersInRange ∧
  (∀ p : Params, (State.resetWith p).div6Variant = p.div6Variant) ∧ State.reset.div6Variant = .asWritten

/-- Right after reset, for every RESET_MODE: every audible bit reads 0, READ_CONFIG of channel i responds
`CFG i, i, RESET_MODE, 0`, and every sample is 0 as long as only NEXT_SAMPLE is issued (R168). -/
def Obligations.AfterReset : Prop :=
  ∀ (m : BitVec 4) (i : ChannelIndex) (n : Nat),
    let s := State.resetWith { Config.params with resetMode := m }
    (∃ t, exec (.readAudible i.val) s = .next t ∧ t.outcomes = [.response 0]) ∧
    (∃ t, exec (.readConfig i.val) s = .next t ∧
      t.outcomes = [.response (BitVec.ofNat 32 (0x40000000 + i.val * 2 ^ 25 + i.val * 2 ^ 20 + m.toNat * 2 ^ 16))]) ∧
    (∃ t, runRequests s (List.replicate n .nextSample) = .next t ∧
      t.outcomes = List.replicate n (.response 0))

/-! ### ChannelBank (40_channel_bank.md) -/

/-- CONFIGURE with operands that fit completes, writes the three configuration fields of the channel it names, and leaves its
counter and registers, every other channel, and all but the outcome `done` as they were (R70's pseudocode, R73). -/
def Obligations.ConfigureWritesFields : Prop :=
  ∀ (ch div mode vol : Nat) (s : State) (hc : ch < 32), div < 32 → mode < 16 → vol < 65536 →
    ∃ t, exec (.configure ch div mode vol) s = .next t ∧
      (t.ch ⟨ch, hc⟩).divide.toNat = div ∧ (t.ch ⟨ch, hc⟩).mode.toNat = mode ∧ (t.ch ⟨ch, hc⟩).volume.toNat = vol ∧
      (t.ch ⟨ch, hc⟩).SameInternal (s.ch ⟨ch, hc⟩) ∧
      (∀ i : ChannelIndex, i.val ≠ ch → t.ch i = s.ch i) ∧
      s.SameInterface t ∧ t.outcomes = s.outcomes ++ [.done]

/-- READ_CONFIG with an index that fits completes, writes no state, and responds the channel's configuration as a
CONFIGURE-format word (R71's pseudocode, R66). -/
def Obligations.ReadConfigResponds : Prop :=
  ∀ (ch : Nat) (s : State) (hc : ch < 32),
    let c := s.ch ⟨ch, hc⟩
    ∃ t, exec (.readConfig ch) s = .next t ∧ t.channels = s.channels ∧ s.SameInterface t ∧
      t.outcomes = s.outcomes ++ [.response (BitVec.ofNat 32
        (1 * 2 ^ 30 + ch * 2 ^ 25 + c.divide.toNat * 2 ^ 20 + c.mode.toNat * 2 ^ 16 + c.volume.toNat))]

/-- READ_AUDIBLE with an index that fits completes, writes no state, and responds bit 3 of the channel's `reg4`, zero-extended,
whatever its volume (R72's pseudocode, R66). -/
def Obligations.ReadAudibleResponds : Prop :=
  ∀ (ch : Nat) (s : State) (hc : ch < 32),
    ∃ t, exec (.readAudible ch) s = .next t ∧ t.channels = s.channels ∧ s.SameInterface t ∧
      t.outcomes = s.outcomes ++ [.response (BitVec.ofNat 32 ((s.ch ⟨ch, hc⟩).reg4.toNat / 8))]

/-- NEXT_SAMPLE is not idempotent; a CONFIGURE issued twice in a row leaves the channels as issuing it once; the reads change
no state and answer the same twice (R49). -/
def Obligations.CommandSideEffects : Prop :=
  (∃ s t u : State, exec .nextSample s = .next t ∧ exec .nextSample t = .next u ∧ t.channels ≠ s.channels ∧
    u.channels ≠ t.channels) ∧
  (∀ (ch div mode vol : Nat) (s : State), ∃ t u, exec (.configure ch div mode vol) s = .next t ∧
    exec (.configure ch div mode vol) t = .next u ∧ u.channels = t.channels) ∧
  (∀ (i : Instr) (s : State), (∃ ch, i = .readConfig ch ∨ i = .readAudible ch) →
    ∃ t u o, exec i s = .next t ∧ exec i t = .next u ∧ t.channels = s.channels ∧ u.channels = s.channels ∧
      t.outcomes = s.outcomes ++ [o] ∧ u.outcomes = s.outcomes ++ [o, o])

/-- A READ_CONFIG after a CONFIGURE of the same channel returns the values just written; the CONFIGURE changes no channel's
audible bit, and a READ_AUDIBLE of any channel after it responds bit 3 of the `reg4` that stood before it (R54). -/
def Obligations.ReadAfterConfigure : Prop :=
  ∀ (ch div mode vol : Nat) (s : State), ch < 32 → div < 32 → mode < 16 → vol < 65536 →
    ∃ t u w, exec (.configure ch div mode vol) s = .next t ∧ exec (.readConfig ch) t = .next u ∧
      u.outcomes = t.outcomes ++ [.response w] ∧ decodeCommand w = .ok (.configure ch div mode vol) ∧
      (∀ i, (t.ch i).audible = (s.ch i).audible) ∧
      ∀ i : ChannelIndex, ∃ a, exec (.readAudible i.val) t = .next a ∧
        a.outcomes = t.outcomes ++ [.response (BitVec.ofNat 32 ((s.ch i).reg4.getLsbD 3).toNat)]

/-- A READ_CONFIG response reissued as a command is a CONFIGURE that leaves every channel unchanged; with one field replaced
it is a write of that field alone (R66, R46). -/
def Obligations.ReadConfigResponseReissued : Prop :=
  ∀ (s : State) (c : ChannelIndex),
    ∃ t w ch div mode vol, exec (.readConfig c.val) s = .next t ∧ t.outcomes = s.outcomes ++ [.response w] ∧
      decodeCommand w = .ok (.configure ch div mode vol) ∧
      (∃ u, exec (.configure ch div mode vol) t = .next u ∧ u.channels = s.channels) ∧
      (∀ d : BitVec 5, ∃ u, exec (.configure ch d.toNat mode vol) t = .next u ∧
        u.channels = (s.setCh c { s.ch c with divide := d }).channels) ∧
      (∀ m : BitVec 4, ∃ u, exec (.configure ch div m.toNat vol) t = .next u ∧
        u.channels = (s.setCh c { s.ch c with mode := m }).channels) ∧
      (∀ v : BitVec 16, ∃ u, exec (.configure ch div mode v.toNat) t = .next u ∧
        u.channels = (s.setCh c { s.ch c with volume := v }).channels)

/-- A CONFIGURE takes effect from the next NEXT_SAMPLE: that tick is the tick of the old counter and registers under the new
divide, mode and volume (R52, R47). -/
def Obligations.ConfigureInForceNextSample : Prop :=
  ∀ (s : State) (c : ChannelIndex) (d : BitVec 5) (m : BitVec 4) (v : BitVec 16), s.Ready →
    ∃ t, runRequests s [.configure c.val d.toNat m.toNat v.toNat, .nextSample] = .next t ∧
      t.ch c = Channel.tick s.div6Variant { s.ch c with divide := d, mode := m, volume := v } ∧
      ∀ i, i ≠ c → t.ch i = Channel.tick s.div6Variant (s.ch i)

/-- Each writer writes only its own fields, over all instructions: only CONFIGURE changes a configuration, only NEXT_SAMPLE a
counter, only NEXT_SAMPLE and a firing a shift register, and the reads nothing (R29). -/
def Obligations.WritersKeepToTheirFields : Prop :=
  ∀ (i : Instr) (s : State), ∃ t, exec i s = .next t ∧ t.div6Variant = s.div6Variant ∧ t.input = s.input ∧
    ∀ c : ChannelIndex,
      ((∀ ch div mode vol, i ≠ .configure ch div mode vol) → (t.ch c).SameConfig (s.ch c)) ∧
      (i ≠ .nextSample → (t.ch c).counter = (s.ch c).counter) ∧
      ((∃ ch div mode vol, i = .configure ch div mode vol) → (t.ch c).SameInternal (s.ch c)) ∧
      ((∃ ch, i = .readConfig ch ∨ i = .readAudible ch) → t.ch c = s.ch c)

/-! ### WaveformEngine (41_waveform_engine.md) -/

/-- STEP4 and STEP5 on the numbers: shift left, shift in the XOR of two taps, and inject 1 at zero (R83, R84, R82). -/
def Obligations.LfsrStepFormulas : Prop :=
  (∀ r : Reg4, (step4 r).toNat =
    if r.toNat ≠ 0 then (2 * r.toNat + (r.toNat / 8 + r.toNat / 4) % 2) % 16 else 1) ∧
  (∀ r : Reg5, (step5 r).toNat =
    if r.toNat % 32 ≠ 0 then (2 * r.toNat + (r.toNat / 16 + r.toNat / 4) % 2) % 64 else 1) ∧
  (∀ r : Reg5, (step5 r).getLsbD 5 = r.getLsbD 4) ∧
  step4 0x0 = 0x1 ∧ step4 0x8 = 0x1 ∧ step4 0xF = 0xE ∧ step4 0x5 = 0xB ∧
  step5 0x00 = 0x01 ∧ step5 0x3C = 0x38 ∧ step5 0x27 = 0x0F ∧ step5 0x10 = 0x21 ∧ step5 0x20 = 0x01

/-- STEP9 is the 9-bit LFSR on the joint value `J`, taps 8 and 4, injecting 1 only when `J` is 0; its P5 keeps six bits
(R85, R95). -/
def Obligations.JointStepIsNineBitLfsr : Prop :=
  (∀ (r4 : Reg4) (r5 : Reg5),
    let j := jointValue (r4, r5)
    jointValue (step9 r4 r5) = if j ≠ 0 then (2 * j + (j / 256 + j / 16) % 2) % 512 else 1) ∧
  (∀ (r4 : Reg4) (r5 : Reg5), (step9 r4 r5).2.getLsbD 5 = r5.getLsbD 4) ∧
  step9 0x0 0x00 = (0x0, 0x01) ∧ step9 0x8 0x10 = (0x1, 0x20) ∧ step9 0x1 0x00 = (0x2, 0x00)

/-- FILL1, DIV2, SHIFTIN and the two gates on the numbers (R86, R87, R89, R90, R91). -/
def Obligations.ShiftAndGateFormulas : Prop :=
  (∀ r : Reg4, (fill1 r).toNat = (2 * r.toNat + 1) % 16) ∧
  (∀ (r : Reg4) (n : Nat), 4 ≤ n → fill1^[n] r = 0xF) ∧
  fill1 0x0 = 0x1 ∧ fill1 0x7 = 0xF ∧ fill1 0xF = 0xF ∧
  (∀ r : Reg4, (div2 r).toNat = (2 * r.toNat + (if r.toNat % 2 = 1 then 0 else 1)) % 16) ∧
  (∀ r : Reg4, audibleOf (div2 r) = r.getLsbD 2) ∧
  (∀ (r : Reg4) (n : Nat), 3 ≤ n → audibleOf (div2^[n + 1] r) = !audibleOf (div2^[n] r)) ∧
  div2 0x0 = 0x1 ∧ div2 0xA = 0x5 ∧ div2 0x5 = 0xA ∧ div2 0xF = 0xE ∧
  (∀ (r : Reg4) (x : Bool), (shiftIn 4 r x).toNat = (2 * r.toNat + x.toNat) % 16) ∧
  (∀ v : Reg5, (gate31 v = true ↔ v.toNat % 16 = 8) ∧ (gateB4 v = true ↔ v.toNat / 16 % 2 = 1))

/-- DIV6 on the numbers under each variant, where it goes from every state, and what the audible bit then does (R88, R94,
conflict C1). -/
def Obligations.Div6FormulasAndOrbits : Prop :=
  (∀ r : Reg4,
    let n := r.toNat
    let low := n / 4 % 2 = 0 ∧ n % 8 ≠ 0
    (div6 .asWritten r).toNat = (2 * (15 - n) + (if low then 0 else 1)) % 16 ∧
    (div6 .negatedFeedback r).toNat = (2 * (15 - n) + (if low then 1 else 0)) % 16 ∧
    (div6 .twistedRing r).toNat = (2 * n + (if n / 4 % 2 = 0 then 1 else 0)) % 16) ∧
  (let f := div6 .asWritten
   f 0x1 = 0xC ∧ f 0xC = 0x7 ∧ f 0x7 = 0x1 ∧ f 0x5 = 0x5 ∧ f 0xA = 0xA ∧
   f 0x0 = 0xF ∧ f 0xF = 0x1 ∧ f 0x2 = 0xA ∧ f 0x3 = 0x8 ∧ f 0x8 = 0xF ∧ f 0x4 = 0x7 ∧ f 0x6 = 0x3 ∧ f 0x9 = 0xC ∧
   f 0xB = 0x8 ∧ f 0xD = 0x5 ∧ f 0xE = 0x3 ∧
   (List.range 12).map (fun n => (audibleOf (f^[n + 1] 0)).toNat) = [1, 0, 1, 0, 0, 1, 0, 0, 1, 0, 0, 1]) ∧
  (let f := div6 .negatedFeedback
   f 0x2 = 0xB ∧ f 0xB = 0x9 ∧ f 0x9 = 0xD ∧ f 0xD = 0x4 ∧ f 0x4 = 0x6 ∧ f 0x6 = 0x2 ∧
   (∀ r : Reg4, ∃ n, f^[n] r = 0x2) ∧
   (List.range 12).map (fun n => (audibleOf (f^[n + 1] 0)).toNat) = [1, 0, 1, 1, 1, 0, 0, 0, 1, 1, 1, 0]) ∧
  (let f := div6 .twistedRing
   f 0x1 = 0x3 ∧ f 0x3 = 0x7 ∧ f 0x7 = 0xE ∧ f 0xE = 0xC ∧ f 0xC = 0x8 ∧ f 0x8 = 0x1 ∧ f 0x5 = 0xA ∧ f 0xA = 0x5 ∧
   (List.range 12).map (fun n => (audibleOf (f^[n + 1] 0)).toNat) = [0, 0, 0, 1, 1, 1, 0, 0, 0, 1, 1, 1])

/-- The meaning of the mode that a mode field decodes to is the dispatch's arm for that field, for all 16 values (R99, R80);
executed with no firing event pending a mode changes nothing, since registers move only in a firing (R121; log 6). -/
def Obligations.ModesAgreeWithDispatch : Prop :=
  (∀ m : BitVec 4, FiresAs (decodeMode m) (fun v => fire v m)) ∧
  (∀ (m : BitVec 4) (s : State), s.firing = none → exec (decodeMode m) s = .next s)

/-- MODE0, constant 1-fill (R100, R81; run by itself in the model's own way, log 6, and in NEXT_SAMPLE). -/
def Obligations.Mode0Firing : Prop :=
  let rule := fun (r4 : Reg4) (r5 : Reg5) => (fill1 r4, r5)
  decodeMode 0 = .mode0 ∧ FiresAs .mode0 (fun _ => rule) ∧ NextSampleApplies 0 (fun _ => rule) ∧
  (∀ r4 r5 n, 4 ≤ n → firings rule n (r4, r5) = (0xF, r5) ∧ audibleOf (firings rule n (r4, r5)).1 = true) ∧
  rule 0x7 0x15 = (0xF, 0x15)

/-- MODE1, the 4-bit LFSR (R101, R81; run by itself in the model's own way, log 6, and in NEXT_SAMPLE). -/
def Obligations.Mode1Firing : Prop :=
  let rule := fun (r4 : Reg4) (r5 : Reg5) => (step4 r4, r5)
  decodeMode 1 = .mode1 ∧ FiresAs .mode1 (fun _ => rule) ∧ NextSampleApplies 1 (fun _ => rule) ∧
  (∀ r5, rule 0 r5 = (1, r5)) ∧
  (∀ r4 r5 n, 0 < n → r4 ≠ 0 → (firings rule n (r4, r5) = (r4, r5) ↔ 15 ∣ n)) ∧
  (∀ r5, (List.range 15).map (fun n => (audibleOf (firings rule (n + 1) (0, r5)).1).toNat) =
    [0, 0, 0, 1, 0, 0, 1, 1, 0, 1, 0, 1, 1, 1, 1]) ∧
  (∀ r5, rule 0xF r5 = (0xE, r5))

/-- MODE2, the div-31 gate driving the 4-bit LFSR (R102, R81; run by itself in the model's own way, log 6, and in NEXT_SAMPLE). -/
def Obligations.Mode2Firing : Prop :=
  let rule := fun (r4 : Reg4) (r5 : Reg5) => (if gate31 (step5 r5) then step4 r4 else r4, step5 r5)
  decodeMode 2 = .mode2 ∧ FiresAs .mode2 (fun _ => rule) ∧ NextSampleApplies 2 (fun _ => rule) ∧
  (∀ n, n ≤ 16 → (firings rule n (0, 0)).1 = 0) ∧ (firings rule 17 (0, 0)).1 = 1 ∧
  (∀ r5, opensIn31 gate31 r5 = 2) ∧
  (∀ r5, gate31 (step5 r5) = true → (rule 0 r5).1 = 1) ∧
  rule 0x5 0x3C = (0xB, 0x38) ∧ rule 0x5 0x27 = (0x5, 0x0F)

/-- MODE3, the 5-bit LFSR gating the 4-bit LFSR (R103, R81; run by itself in the model's own way, log 6, and in NEXT_SAMPLE). -/
def Obligations.Mode3Firing : Prop :=
  let rule := fun (r4 : Reg4) (r5 : Reg5) => (if (step5 r5).getLsbD 4 then step4 r4 else r4, step5 r5)
  decodeMode 3 = .mode3 ∧ FiresAs .mode3 (fun _ => rule) ∧ NextSampleApplies 3 (fun _ => rule) ∧
  (∀ n, n ≤ 4 → (firings rule n (0, 0)).1 = 0) ∧ (firings rule 5 (0, 0)).1 = 1 ∧
  (∀ n, n ≤ 4 → (firings rule n (0, 0)).2.getLsbD 4 = false) ∧ (firings rule 5 (0, 0)).2.getLsbD 4 = true ∧
  rule 0x5 0x0F = (0xB, 0x1F) ∧ rule 0x5 0x07 = (0x5, 0x0F)

/-- MODE4, pure divide-by-2 (R104, R81; run by itself in the model's own way, log 6, and in NEXT_SAMPLE). -/
def Obligations.Mode4Firing : Prop :=
  let rule := fun (r4 : Reg4) (r5 : Reg5) => (div2 r4, r5)
  decodeMode 4 = .mode4 ∧ FiresAs .mode4 (fun _ => rule) ∧ NextSampleApplies 4 (fun _ => rule) ∧
  (∀ r4 r5 n, 3 ≤ n → ((firings rule n (r4, r5)).1 = 0x5 ∨ (firings rule n (r4, r5)).1 = 0xA) ∧
    audibleOf (firings rule (n + 1) (r4, r5)).1 = !audibleOf (firings rule n (r4, r5)).1) ∧
  (∀ r5, (List.range 8).map (fun n => (audibleOf (firings rule (n + 1) (0, r5)).1).toNat) = [0, 0, 0, 1, 0, 1, 0, 1]) ∧
  (∀ r5, rule 0xA r5 = (0x5, r5))

/-- MODE6, the div-31 gate driving div-2 (R106, R81; run by itself in the model's own way, log 6, and in NEXT_SAMPLE). -/
def Obligations.Mode6Firing : Prop :=
  let rule := fun (r4 : Reg4) (r5 : Reg5) => (if gate31 (step5 r5) then div2 r4 else r4, step5 r5)
  decodeMode 6 = .mode6 ∧ FiresAs .mode6 (fun _ => rule) ∧ NextSampleApplies 6 (fun _ => rule) ∧
  (∀ n, n ≤ 16 → (firings rule n (0, 0)).1 = 0) ∧ (firings rule 17 (0, 0)).1 = 1 ∧
  (∀ r4, div2 (div2 (div2 r4)) = 0x5 ∨ div2 (div2 (div2 r4)) = 0xA) ∧
  (∀ r4 r5, (r4 = 0x5 ∨ r4 = 0xA) → gate31 (step5 r5) = true →
    ((rule r4 r5).1 = 0x5 ∨ (rule r4 r5).1 = 0xA) ∧ audibleOf (rule r4 r5).1 = !audibleOf r4) ∧
  (∀ n, 48 ≤ n → (audibleOf (firings rule n (0, 0)).1 = true ↔ 61 ≤ n ∧ (n - 61) % 31 < 18)) ∧
  rule 0x0 0x3C = (0x1, 0x38) ∧ rule 0x0 0x27 = (0x0, 0x0F)

/-- MODE7, the 5-bit LFSR gating div-2 (R107, R81; run by itself in the model's own way, log 6, and in NEXT_SAMPLE). -/
def Obligations.Mode7Firing : Prop :=
  let rule := fun (r4 : Reg4) (r5 : Reg5) => (if (step5 r5).getLsbD 4 then div2 r4 else r4, step5 r5)
  decodeMode 7 = .mode7 ∧ FiresAs .mode7 (fun _ => rule) ∧ NextSampleApplies 7 (fun _ => rule) ∧
  (∀ r4 r5, (rule r4 r5).1 ≠ r4 ↔ (step5 r5).getLsbD 4 = true) ∧
  (∀ r5, opensIn31 gateB4 r5 = 16) ∧
  rule 0x1 0x0F = (0x2, 0x1F) ∧ rule 0x1 0x07 = (0x1, 0x0F)

/-- MODE8, the 9-bit LFSR: the injection happens only when both registers are zero, and from reset the audible bit is first 1
at firing 9 (R108's pseudocode, corner cases but the period, which LfsrPeriods states, and example; run by itself in
the model's own way, log 6, and in NEXT_SAMPLE). -/
def Obligations.Mode8Firing : Prop :=
  decodeMode 8 = .mode8 ∧
  FiresAs .mode8 (fun _ r4 r5 =>
    let n5 : Reg5 := if r5.toNat % 32 = 0 ∧ r4 = 0 then 1 else shiftIn 6 r5 (r4.getLsbD 3 ^^ r5.getLsbD 4)
    (shiftIn 4 r4 (n5.getLsbD 5), n5)) ∧
  FiresAs .mode8 (fun _ => step9) ∧ NextSampleApplies 8 (fun _ => step9) ∧
  (∀ n, n ≤ 8 → audibleOf (firings step9 n (0, 0)).1 = false) ∧ audibleOf (firings step9 9 (0, 0)).1 = true ∧
  step9 0x8 0x10 = (0x1, 0x20) ∧ step9 0x0 0x00 = (0x0, 0x01)

/-- MODE9, the 5-bit LFSR feeding P4 (R109, R81; run by itself in the model's own way, log 6, and in NEXT_SAMPLE). -/
def Obligations.Mode9Firing : Prop :=
  let rule := fun (r4 : Reg4) (r5 : Reg5) => (shiftIn 4 r4 ((step5 r5).getLsbD 5), step5 r5)
  decodeMode 9 = .mode9 ∧ FiresAs .mode9 (fun _ => rule) ∧ NextSampleApplies 9 (fun _ => rule) ∧
  (∀ r4 r5, (rule r4 r5).1 = shiftIn 4 r4 (r5.getLsbD 4)) ∧
  (∀ r4 r5 n, audibleOf (firings rule (n + 4) (r4, r5)).1 = (firings rule n (r4, r5)).2.getLsbD 4) ∧
  (∀ r4 r5, r5.toNat % 32 = 0 → rule r4 r5 = (shiftIn 4 r4 false, 1)) ∧
  rule 0xA 0x20 = (0x4, 0x01) ∧ rule 0x0 0x10 = (0x1, 0x21)

/-- MODE10, the div-31 gate feeding P5 bit 4 into P4 (R110, R81; run by itself in the model's own way, log 6, and in NEXT_SAMPLE). -/
def Obligations.Mode10Firing : Prop :=
  let rule := fun (r4 : Reg4) (r5 : Reg5) =>
    (if gate31 (step5 r5) then shiftIn 4 r4 ((step5 r5).getLsbD 4) else r4, step5 r5)
  decodeMode 10 = .mode10 ∧ FiresAs .mode10 (fun _ => rule) ∧ NextSampleApplies 10 (fun _ => rule) ∧
  (∀ r4 n, (firings rule (31 * n + 17) (r4, 0)).2.toNat % 32 = 0x18 ∧
    (firings rule (31 * n + 30) (r4, 0)).2.toNat % 32 = 0x08) ∧
  (∀ r4 n, 61 ≤ n → (audibleOf (firings rule n (r4, 0)).1 = true ↔ (n - 61) % 31 < 18)) ∧
  rule 0x0 0x3C = (0x1, 0x38) ∧ rule 0x0 0x27 = (0x0, 0x0F)

/-- MODE12, the divide-by-6 rule under each variant (R112; run by itself in the model's own way, log 6, and in NEXT_SAMPLE). -/
def Obligations.Mode12Firing : Prop :=
  decodeMode 12 = .mode12 ∧ FiresAs .mode12 (fun v r4 r5 => (div6 v r4, r5)) ∧ NextSampleApplies 12 (fun v r4 r5 => (div6 v r4, r5)) ∧
  (∀ r4 : Reg4, r4 ∉ [0x5, 0xA, 0x2, 0xD] → ∀ n, 4 ≤ n →
    ((div6 .asWritten)^[n + 3] r4 = (div6 .asWritten)^[n] r4 ∧
      ¬ (audibleOf ((div6 .asWritten)^[n] r4) = audibleOf ((div6 .asWritten)^[n + 1] r4) ∧
        audibleOf ((div6 .asWritten)^[n + 1] r4) = audibleOf ((div6 .asWritten)^[n + 2] r4)))) ∧
  (∀ r4 : Reg4, r4 ∈ [0x5, 0xA, 0x2, 0xD] → ∀ n, 1 ≤ n →
    (div6 .asWritten)^[n] r4 = div6 .asWritten r4 ∧ div6 .asWritten r4 ∈ [0x5#4, 0xA#4]) ∧
  (∀ v, v ≠ .asWritten → ∀ (r4 : Reg4) (n : Nat), 4 ≤ n → (div6 v)^[n + 6] r4 = (div6 v)^[n] r4) ∧
  (∀ v, (List.range 12).map (fun n => (audibleOf ((div6 v)^[n + 1] 0)).toNat) = [0, 0, 0, 1, 1, 1, 0, 0, 0, 1, 1, 1] ↔
    v = .twistedRing) ∧
  div6 .asWritten 0x0 = 0xF ∧ div6 .negatedFeedback 0x0 = 0xE ∧ div6 .twistedRing 0x0 = 0x1

/-- MODE14, the div-31 gate driving div-6 (R114, R81; run by itself in the model's own way, log 6, and in NEXT_SAMPLE). -/
def Obligations.Mode14Firing : Prop :=
  let rule := fun (v : Div6Variant) (r4 : Reg4) (r5 : Reg5) =>
    (if gate31 (step5 r5) then div6 v r4 else r4, step5 r5)
  decodeMode 14 = .mode14 ∧ FiresAs .mode14 rule ∧ NextSampleApplies 14 rule ∧
  (∀ r5, opensIn31 gate31 r5 = 2) ∧
  rule .asWritten 0x0 0x3C = (0xF, 0x38) ∧ rule .asWritten 0x0 0x27 = (0x0, 0x0F)

/-- MODE15, the 5-bit LFSR gating div-6 (R115, R81; run by itself in the model's own way, log 6, and in NEXT_SAMPLE). -/
def Obligations.Mode15Firing : Prop :=
  let rule := fun (v : Div6Variant) (r4 : Reg4) (r5 : Reg5) =>
    (if (step5 r5).getLsbD 4 then div6 v r4 else r4, step5 r5)
  decodeMode 15 = .mode15 ∧ FiresAs .mode15 rule ∧ NextSampleApplies 15 rule ∧
  (∀ r5, opensIn31 gateB4 r5 = 16) ∧
  rule .asWritten 0x0 0x0F = (0xF, 0x1F) ∧ rule .asWritten 0x0 0x07 = (0x0, 0x0F)

/-- MODE5, MODE11 and MODE13 complete with the rules of MODE4, MODE0 and MODE12, from every state and under every variant,
under values of their own, which READ_CONFIG still returns (R105, R111, R113, R116, R57; run by
themselves in the model's own way, log 6, and in NEXT_SAMPLE). -/
def Obligations.AliasModesFiring : Prop :=
  decodeMode 5 = .mode5 ∧ FiresAs .mode5 (fun _ r4 r5 => (div2 r4, r5)) ∧ NextSampleApplies 5 (fun _ r4 r5 => (div2 r4, r5)) ∧
  (∀ s : State, exec .mode5 s = exec .mode4 s) ∧ ReadConfigShowsMode 5 ∧ div2 0xA = 0x5 ∧
  decodeMode 11 = .mode11 ∧ FiresAs .mode11 (fun _ r4 r5 => (fill1 r4, r5)) ∧ NextSampleApplies 11 (fun _ r4 r5 => (fill1 r4, r5)) ∧
  (∀ s : State, exec .mode11 s = exec .mode0 s) ∧ ReadConfigShowsMode 11 ∧ fill1 0x7 = 0xF ∧
  decodeMode 13 = .mode13 ∧ FiresAs .mode13 (fun v r4 r5 => (div6 v r4, r5)) ∧ NextSampleApplies 13 (fun v r4 r5 => (div6 v r4, r5)) ∧
  (∀ s : State, exec .mode13 s = exec .mode12 s) ∧ ReadConfigShowsMode 13 ∧ div6 .asWritten 0x0 = 0xF

/-- The LFSR steps are maximal-length: a non-zero value returns after n steps exactly when 15, 31 or 511 divides n (R93). -/
def Obligations.LfsrPeriods : Prop :=
  (∀ (r : Reg4) (n : Nat), r ≠ 0 → (step4^[n] r = r ↔ 15 ∣ n)) ∧
  (List.range 16).map (fun n => step4^[n + 1] 0) = [0x1, 0x2, 0x4, 0x9, 0x3, 0x6, 0xD, 0xA, 0x5, 0xB, 0x7, 0xF, 0xE, 0xC, 0x8, 0x1] ∧
  (∀ (r : Reg5) (n : Nat), r.toNat % 32 ≠ 0 → ((step5^[n] r).toNat % 32 = r.toNat % 32 ↔ 31 ∣ n)) ∧
  (∀ (p : Reg4 × Reg5) (n : Nat), jointValue p ≠ 0 → (jointValue (firings step9 n p) = jointValue p ↔ 511 ∣ n))

/-- Counted from `reg5 = 0`, GATE31 is open exactly at firings 17 + 31k and 30 + 31k, and GATEB4 at 16 of any 31 firings
(R96). -/
def Obligations.GatePulseFirings : Prop :=
  (∀ n : Nat, gate31 (step5^[n] 0) = true ↔ n % 31 = 17 ∨ n % 31 = 30) ∧
  (∀ n : Nat, (step5^[31 * n + 17] 0).toNat % 32 = 0x18 ∧ (step5^[31 * n + 30] 0).toNat % 32 = 0x08) ∧
  (∀ r5 : Reg5, opensIn31 gate31 r5 = 2 ∧ opensIn31 gateB4 r5 = 16)

/-- Exactly 13 mode values are distinct functions of the registers: two values agree on every input, under any one variant,
exactly when they are the same value or one of the pairs 0 and 11, 4 and 5, 12 and 13 (R116, R117, R57). -/
def Obligations.AliasModesExactly : Prop :=
  ∀ (v : Div6Variant) (m n : BitVec 4),
    (∀ r4 r5, fire v m r4 r5 = fire v n r4 r5) ↔
      m = n ∨ (m = 0 ∧ n = 11) ∨ (m = 11 ∧ n = 0) ∨ (m = 4 ∧ n = 5) ∨ (m = 5 ∧ n = 4) ∨
        (m = 12 ∧ n = 13) ∨ (m = 13 ∧ n = 12)

/-- In every mode the new P4 depends on the low five bits of P5 only, and so do the low five bits of the new P5. Where a mode
steps P5, all of the new P5 does; where it does not, P5 is kept whole (derived from R119 and R92; log 13). -/
def Obligations.ExtensionBitNeverRead : Prop :=
  ∀ (v : Div6Variant) (m : BitVec 4) (r4 : Reg4) (a b : Reg5), a &&& 0x1F = b &&& 0x1F →
    (fire v m r4 a).1 = (fire v m r4 b).1 ∧ (fire v m r4 a).2 &&& 0x1F = (fire v m r4 b).2 &&& 0x1F ∧
    (m ∈ [2#4, 3, 6, 7, 8, 9, 10, 14, 15] → (fire v m r4 a).2 = (fire v m r4 b).2) ∧
    (m ∈ [0#4, 1, 4, 5, 11, 12, 13] → (fire v m r4 a).2 = a)

/-! ### SampleClock and Mixer (42_sample_clock_mixer.md) -/

/-- NEXT_SAMPLE completes, advances every channel's divider as R120 says, and writes no configuration, no parameter and no
waiting request. -/
def Obligations.NextSampleAdvancesDividers : Prop :=
  ∀ s : State, ∃ t, exec .nextSample s = .next t ∧ s.SameInterface t ∧
    ∀ i, (t.ch i).SameConfig (s.ch i) ∧
      (t.ch i).counter.toNat =
        if 2 * (s.ch i).divide.toNat + 2 ≤ (s.ch i).counter.toNat + 1 then 0 else (s.ch i).counter.toNat + 1

/-- NEXT_SAMPLE completes, and a channel fires in it exactly when its counter, after the update, is 0 or `divide + 1`: then
its registers become what the dispatch on its mode gives, once, else they are kept (R121). -/
def Obligations.NextSampleFiresChannels : Prop :=
  ∀ s : State, ∃ t, exec .nextSample s = .next t ∧
    ∀ i, ((t.ch i).reg4, (t.ch i).reg5) =
        (if (t.ch i).counter = 0 ∨ (t.ch i).counter.toNat = (s.ch i).divide.toNat + 1 then
          fire s.div6Variant (s.ch i).mode (s.ch i).reg4 (s.ch i).reg5
        else ((s.ch i).reg4, (s.ch i).reg5)) ∧
      ¬ ((t.ch i).counter = 0 ∧ (t.ch i).counter.toNat = (s.ch i).divide.toNat + 1)

/-- NEXT_SAMPLE completes and responds, as a signed number, wrap16 of the exact sum over all channels of the volume where the
updated `reg4` has bit 3 set; wrap16 is the signed 16-bit value congruent to the sum (R127, R128, R66, R126). -/
def Obligations.NextSampleRespondsMixedSample : Prop :=
  (∀ s : State, ∃ t w, exec .nextSample s = .next t ∧ t.outcomes = s.outcomes ++ [.response w] ∧
    w.toInt = wrap16 (∑ i : ChannelIndex, if (t.ch i).reg4.getLsbD 3 then (t.ch i).volume.toNat else 0)) ∧
  (∀ n : Nat, -32768 ≤ wrap16 n ∧ wrap16 n ≤ 32767 ∧ (65536 : Int) ∣ (n : Int) - wrap16 n)

/-- The sample is the same whatever the accumulator's width, from 16 bits up: summing in an accumulator of any such width that
wraps after each addition, and truncating to 16 bits once, gives the sample of the exact sum, for any list of terms and, in
NEXT_SAMPLE, for the volumes of the audible channels; and wrap16 of R128's examples (R33, R128; decision D6). -/
def Obligations.AccumulatorWidthImmaterial : Prop :=
  (∀ (k : Nat) (vs : List (BitVec 16)), 16 ≤ k →
    ((vs.map (BitVec.setWidth k)).foldl (· + ·) 0).setWidth 16 = sampleOf (vs.map BitVec.toNat).sum) ∧
  (∀ (k : Nat) (s : State), 16 ≤ k →
    ∃ t, exec .nextSample s = .next t ∧
      t.outcomes = s.outcomes ++ [.response (BitVec.signExtend 32 (BitVec.setWidth 16
        ((List.finRange 32).foldl
          (fun acc i => if (t.ch i).reg4.getLsbD 3 then acc + (t.ch i).volume.setWidth k else acc) 0)))]) ∧
  (∀ vs : List (BitVec 16), vs.foldl (· + ·) 0 = sampleOf (vs.map BitVec.toNat).sum) ∧
  (∀ n : Nat, (sampleOf n).toInt = wrap16 n) ∧
  wrap16 40000 = -25536 ∧ wrap16 32768 = -32768 ∧ wrap16 (32767 + 1) = -32768 ∧ wrap16 2097120 = -32 ∧ wrap16 32000 = 32000

/-- After any NEXT_SAMPLE every counter is in `[0, 2·divide + 1]`, and every command but a CONFIGURE keeps it there (R24,
R122, conflict C10). -/
def Obligations.CounterRangeKept : Prop :=
  (∀ s : State, ∃ t, exec .nextSample s = .next t ∧ t.CountersInRange) ∧
  (∀ (i : Instr) (s : State), (∀ ch div mode vol, i ≠ .configure ch div mode vol) → s.CountersInRange →
    ∃ t, exec i s = .next t ∧ t.CountersInRange)

/-- After a CONFIGURE that lowers or raises `divide`, the next tick wraps the counter and fires when `counter + 1` reaches the
new limit, and otherwise fires only at the new `divide + 1` and counts on (R122). -/
def Obligations.DividerAfterReconfigure : Prop :=
  ∀ (s : State) (c : ChannelIndex) (d : BitVec 5) (m : BitVec 4) (v : BitVec 16), s.Ready →
    let n := (s.ch c).counter.toNat + 1
    ∃ t, runRequests s [.configure c.val d.toNat m.toNat v.toNat, .nextSample] = .next t ∧
      (2 * d.toNat + 2 ≤ n → (t.ch c).counter = 0 ∧ (t.ch c).fires = true) ∧
      (n < 2 * d.toNat + 2 → (t.ch c).counter.toNat = n ∧ ((t.ch c).fires = true ↔ n = d.toNat + 1)) ∧
      (t.ch c).counter.toNat ≤ 2 * d.toNat + 1

/-- With `divide = d` constant and the counter starting at 0, the channel fires at the ticks that `d + 1` divides and at no
other, its counter after n ticks is `n mod (2d + 2)`, and its registers are those of `n / (d + 1)` firings (R123). -/
def Obligations.FiringEveryDividePlusOneTicks : Prop :=
  ∀ (s : State) (c : ChannelIndex) (n : Nat), s.Ready → (s.ch c).counter = 0 →
    let d := (s.ch c).divide.toNat
    ∃ t, runRequests s (List.replicate n .nextSample) = .next t ∧
      (t.ch c).counter.toNat = n % (2 * d + 2) ∧
      ((t.ch c).fires = true ↔ (d + 1) ∣ n) ∧
      ((t.ch c).reg4, (t.ch c).reg5) =
        firings (fire s.div6Variant (s.ch c).mode) (n / (d + 1)) ((s.ch c).reg4, (s.ch c).reg5) ∧
      (t.ch c).SameConfig (s.ch c)

/-- The order in which the channels are advanced does not change the result: advancing them one after another, in any order,
gives the channels NEXT_SAMPLE gives (R126). -/
def Obligations.ChannelOrderImmaterial : Prop :=
  ∀ (s : State) (order : List ChannelIndex), order.Perm (List.finRange 32) →
    ∃ t, exec .nextSample s = .next t ∧
      t.channels = (order.foldl (fun u i => u.setCh i ((u.ch i).tick s.div6Variant)) s).channels

/-- Channels are independent: whatever is issued, a channel's record at the end depends only on its own record at the start,
the parameter and the requests, not on any other channel (R30, R135). -/
def Obligations.ChannelsIndependent : Prop :=
  ∀ (s t : State) (c : ChannelIndex) (rs : List Request), s.Ready → t.Ready → s.div6Variant = t.div6Variant →
    s.ch c = t.ch c →
    ∃ s' t', runRequests s rs = .next s' ∧ runRequests t rs = .next t' ∧ s'.ch c = t'.ch c

/-- A channel of volume 0 contributes nothing: two states that differ only at channels silent in both give the same samples
for any number of ticks (R130, R170). -/
def Obligations.SilentChannelsUnheard : Prop :=
  ∀ (s t : State) (n : Nat), s.Ready → t.Ready → s.AgreeWhereHeard t → s.outcomes = t.outcomes →
    ∃ s' t', runRequests s (List.replicate n .nextSample) = .next s' ∧
      runRequests t (List.replicate n .nextSample) = .next t' ∧ s'.outcomes = t'.outcomes

/-- The outcomes of any CONFIGUREs followed by any number of NEXT_SAMPLEs do not depend on the OPEN parameter RESET_MODE, when
RESET_VOLUME is 0: configuring before the first NEXT_SAMPLE is enough (R170, R11). -/
def Obligations.SamplesIndependentOfResetMode : Prop :=
  ∀ (p : Params) (a b : BitVec 4) (cfgs : List (Nat × Nat × Nat × Nat)) (n : Nat), p.resetVolume = 0 →
    let rs := cfgs.map (fun q => Request.configure q.1 q.2.1 q.2.2.1 q.2.2.2) ++ List.replicate n .nextSample
    ∃ s t, runRequests (State.resetWith { p with resetMode := a }) rs = .next s ∧
      runRequests (State.resetWith { p with resetMode := b }) rs = .next t ∧ s.outcomes = t.outcomes

/-- Bit 5 of `reg5` is never observed: two states that differ at most in that bit of their channels give the same outcomes to
any requests, and still differ at most there (derived from R119 and R34). -/
def Obligations.ExtensionBitNeverObserved : Prop :=
  ∀ (s t : State) (rs : List Request), s.Ready → t.Ready → s.div6Variant = t.div6Variant → s.outcomes = t.outcomes →
    (∀ i, (s.ch i).SameButExtension (t.ch i)) →
    ∃ s' t', runRequests s rs = .next s' ∧ runRequests t rs = .next t' ∧ s'.outcomes = t'.outcomes ∧
      ∀ i, (s'.ch i).SameButExtension (t'.ch i)
end

