-- ==== Sys2Proof/Laws/Assembler.lean ====
section
/-! SUPPORT. What the assembler's reading of text gives: numbers, mode names, and lines of plain fields (R68, R69). -/

namespace Sys2Proof.Machine

/-! ### Numbers and mode names -/

theorem digitValue_digitChar {b d : Nat} (hb : b ≤ 16) (hd : d < b) : digitValue b (Nat.digitChar d) = some d := by
  have h : ∀ d < 16, digitValue 16 (Nat.digitChar d) = some d := by decide
  have h16 := h d (by omega)
  unfold digitValue at h16 ⊢
  simp only [Option.filter_eq_some_iff, decide_eq_true_eq] at h16 ⊢
  exact ⟨h16.1, hd⟩

/-- Reading the digits of a number gives the number back. -/
theorem digitsValue_toDigits {b : Nat} (hb1 : 1 < b) (hb : b ≤ 16) (n : Nat) :
    digitsValue b (Nat.toDigits b n) = some n := by
  have key : ∀ n, (Nat.toDigits b n).foldl
      (fun acc c => acc.bind fun a => (digitValue b c).map fun d => a * b + d) (some 0) = some n := by
    intro n
    induction n using Nat.strong_induction_on with
    | _ n ih =>
      rcases Nat.lt_or_ge n b with h | h
      · simp [Nat.toDigits_of_lt_base h, digitValue_digitChar hb h]
      · rw [Nat.toDigits_of_base_le hb1 h, List.foldl_append, ih _ (Nat.div_lt_self (by omega) hb1)]
        simp [digitValue_digitChar hb (Nat.mod_lt n (by omega)), Nat.div_add_mod']
  simpa [digitsValue, Nat.toDigits_ne_nil] using key n

/-- A digit character is neither blank nor a separator, and it is not the `x` of `0x`. -/
theorem digit_plain : ∀ d < 16, isBlank (Nat.digitChar d) = false ∧ Nat.digitChar d ≠ ',' ∧ Nat.digitChar d ≠ ';' ∧
    Nat.digitChar d ≠ 'x' := by
  decide

theorem mem_toDigits {b : Nat} (hb1 : 1 < b) (n : Nat) {c : Char} (h : c ∈ Nat.toDigits b n) :
    ∃ d < b, c = Nat.digitChar d := by
  induction n using Nat.strong_induction_on with
  | _ n ih =>
    rcases Nat.lt_or_ge n b with hn | hn
    · rw [Nat.toDigits_of_lt_base hn, List.mem_singleton] at h
      exact ⟨n, hn, h⟩
    · rw [Nat.toDigits_of_base_le hb1 hn, List.mem_append, List.mem_singleton] at h
      rcases h with h | h
      · exact ih _ (Nat.div_lt_self (by omega) hb1) h
      · exact ⟨_, Nat.mod_lt _ (by omega), h⟩

/-- A number's text reads as the number. -/
theorem numberOperand_of_spells {t : List Char} {n : Nat} (h : SpellsNumber t n) : numberOperand t = .ok n := by
  rcases h with rfl | rfl
  · have hd := digitsValue_toDigits (b := 10) (by decide) (by decide) n
    unfold numberOperand
    split
    · rename_i hex heq
      obtain ⟨d, hd, hc⟩ := mem_toDigits (b := 10) (by decide) n (c := 'x') (by simp [heq])
      exact absurd hc.symm (digit_plain d (by omega)).2.2.2
    · simp [hd]
  · simp [numberOperand, digitsValue_toDigits]

theorem modeNames_lookup_name : ∀ m < 16, modeNames.lookup ("MODE".toList ++ Nat.toDigits 10 m) = some m := by decide

/-- A mode's text reads as the mode. -/
theorem modeNameOperand_of_spells {t : List Char} {m : Nat} (h : SpellsMode t m) : modeNameOperand t = .ok m := by
  rcases h with h | ⟨hm, rfl⟩
  · have hn : modeNames.lookup t = none := by
      have hne : ∀ p ∈ modeNames, p.1.head? = some 'M' := by decide
      have ht : t.head? ≠ some 'M' := by
        intro hh
        obtain ⟨u, rfl⟩ := List.head?_eq_some_iff.mp hh
        have hM : ∀ d < 16, 'M' ≠ Nat.digitChar d := by decide
        rcases h with h | h
        · obtain ⟨d, hd, hc⟩ := mem_toDigits (b := 10) (by decide) m (c := 'M') (by simp [← h])
          exact hM d (by omega) hc
        · simp at h
      rw [List.lookup_eq_none_iff]
      intro p hp
      have hp' : t ≠ p.1 := fun e => ht (e ▸ hne p hp)
      simpa using hp'
    rw [modeNameOperand, hn]
    exact numberOperand_of_spells h
  · simp only [modeNameOperand, modeNames_lookup_name m hm]

/-! ### Lines of plain fields -/

/-- A field that holds no blank and no separator. -/
def PlainField (t : List Char) : Prop := t ≠ [] ∧ ∀ c ∈ t, isBlank c = false ∧ c ≠ ',' ∧ c ≠ ';'

theorem plainField_of_spellsNumber {t : List Char} {n : Nat} (h : SpellsNumber t n) : PlainField t := by
  have hp : ∀ {b}, 1 < b → b ≤ 16 → ∀ c ∈ Nat.toDigits b n, isBlank c = false ∧ c ≠ ',' ∧ c ≠ ';' := by
    intro b h1 h16 c hc
    obtain ⟨d, hd, rfl⟩ := mem_toDigits h1 n hc
    exact ⟨(digit_plain d (by omega)).1, (digit_plain d (by omega)).2.1, (digit_plain d (by omega)).2.2.1⟩
  rcases h with rfl | rfl
  · exact ⟨Nat.toDigits_ne_nil, hp (by decide) (by decide)⟩
  · refine ⟨by simp, fun c hc => ?_⟩
    simp only [List.mem_cons] at hc
    rcases hc with rfl | rfl | hc
    · decide
    · decide
    · exact hp (by decide) (by decide) c hc

theorem plainField_of_spellsMode {t : List Char} {m : Nat} (h : SpellsMode t m) : PlainField t := by
  rcases h with h | ⟨-, rfl⟩
  · exact plainField_of_spellsNumber h
  · have hM : ∀ c ∈ ['M', 'O', 'D', 'E'], isBlank c = false ∧ c ≠ ',' ∧ c ≠ ';' := by
      simp [isBlank]
    refine ⟨List.append_ne_nil_of_left_ne_nil (by decide) _, fun c hc => ?_⟩
    rcases List.mem_append.mp hc with hc | hc
    · exact hM c hc
    · exact (plainField_of_spellsNumber (.inl rfl)).2 c hc

/-- A text that neither begins nor ends with a blank is left as it is. -/
theorem trimBlanks_eq_self {t : List Char} (h : ∀ c, t.head? = some c → isBlank c = false)
    (h' : ∀ c, t.getLast? = some c → isBlank c = false) : trimBlanks t = t := by
  have hd : ∀ u : List Char, (∀ c, u.head? = some c → isBlank c = false) → u.dropWhile isBlank = u := by
    intro u hu
    cases u with
    | nil => rfl
    | cons c u => simp [hu c rfl]
  unfold trimBlanks
  rw [hd t h, hd t.reverse (by simpa using h'), List.reverse_reverse]

theorem trimBlanks_blank_cons (t : List Char) : trimBlanks (' ' :: t) = trimBlanks t := by
  simp [trimBlanks, show isBlank ' ' = true from rfl]

theorem PlainField.trim {t : List Char} (h : PlainField t) : trimBlanks t = t :=
  trimBlanks_eq_self (fun c hc => (h.2 c (List.mem_of_head? hc)).1) (fun c hc => (h.2 c (List.mem_of_getLast? hc)).1)

/-- Operands with `", "` between them: no `;`, and no blank at either end. -/
theorem intercalate_plain {os : List (List Char)} (h : ∀ o ∈ os, PlainField o) (hne : os ≠ []) :
    let r := ", ".toList.intercalate os
    (∀ c ∈ r, c ≠ ';') ∧ r ≠ [] ∧ (∀ c, r.head? = some c → isBlank c = false) ∧
      (∀ c, r.getLast? = some c → isBlank c = false) := by
  induction os with
  | nil => exact absurd rfl hne
  | cons o os ih =>
    have ho := h o (by simp)
    cases os with
    | nil =>
      simp only [List.intercalate_singleton]
      exact ⟨fun c hc => (ho.2 c hc).2.2, ho.1, fun c hc => (ho.2 c (List.mem_of_head? hc)).1,
        fun c hc => (ho.2 c (List.mem_of_getLast? hc)).1⟩
    | cons o' os =>
      obtain ⟨i1, i2, -, i4⟩ := ih (fun x hx => h x (List.mem_cons_of_mem _ hx)) (by simp)
      have e : ", ".toList.intercalate (o :: o' :: os) = o ++ (',' :: ' ' :: ", ".toList.intercalate (o' :: os)) := by
        simp [List.intercalate, List.intersperse]
      simp only [e]
      obtain ⟨x, xs, hx⟩ := List.exists_cons_of_ne_nil ho.1
      refine ⟨?_, by simp, ?_, ?_⟩
      · intro c hc
        simp only [List.mem_append, List.mem_cons] at hc
        rcases hc with hc | rfl | rfl | hc
        · exact (ho.2 c hc).2.2
        · decide
        · decide
        · exact i1 c hc
      · intro c hc
        subst hx
        simp only [List.cons_append, List.head?_cons, Option.some.injEq] at hc
        subst hc
        exact (ho.2 x (by simp)).1
      · intro c hc
        obtain ⟨y, ys, hy⟩ := List.exists_cons_of_ne_nil i2
        rw [hy] at i4 hc
        exact i4 c (by simpa [List.getLast?_append, List.getLast?_cons_cons] using hc)

/-- Splitting at the commas and trimming gives the operands back, with or without a blank in front. -/
theorem splitOn_intercalate_trim {os : List (List Char)} (h : ∀ o ∈ os, PlainField o) (hne : os ≠ []) :
    ((", ".toList.intercalate os).splitOn ',').map trimBlanks = os ∧
    ((' ' :: ", ".toList.intercalate os).splitOn ',').map trimBlanks = os := by
  induction os with
  | nil => exact absurd rfl hne
  | cons o os ih =>
    have ho := h o (by simp)
    have hn : ',' ∉ o := fun hc => (ho.2 _ hc).2.1 rfl
    have hn' : ',' ∉ ' ' :: o := by simp [hn]
    cases os with
    | nil =>
      simp only [List.intercalate_singleton, List.splitOn_eq_singleton hn, List.splitOn_eq_singleton hn', List.map_cons,
        List.map_nil, trimBlanks_blank_cons, ho.trim, and_self]
    | cons o' os =>
      have i := (ih (fun x hx => h x (List.mem_cons_of_mem _ hx)) (by simp)).2
      have e : ", ".toList.intercalate (o :: o' :: os) = o ++ (',' :: ' ' :: ", ".toList.intercalate (o' :: os)) := by
        simp [List.intercalate, List.intersperse]
      rw [e]
      refine ⟨?_, ?_⟩
      · rw [List.splitOn_append_cons_self_of_not_mem hn, List.map_cons, i, ho.trim]
      · rw [← List.cons_append, List.splitOn_append_cons_self_of_not_mem hn', List.map_cons, i, trimBlanks_blank_cons, ho.trim]

/-- A line of plain fields is read field by field. -/
theorem parseLine_lineText {name : List Char} {os : List (List Char)} (hn : PlainField name)
    (h : ∀ o ∈ os, PlainField o) : parseLine (lineText name os) = (lineOf name os).map some := by
  obtain ⟨x, xs, rfl⟩ := List.exists_cons_of_ne_nil hn.1
  have hx : isBlank x = false := (hn.2 x (by simp)).1
  have hfull : ∀ c ∈ x :: xs, (!isBlank c) = true := fun c hc => by simp [(hn.2 c hc).1]
  cases os with
  | nil =>
    have h1 : (x :: xs).takeWhile (· != ';') = x :: xs :=
      List.takeWhile_eq_self_iff.mpr fun c hc => by simp [(hn.2 c hc).2.2]
    have h2 : (x :: xs).takeWhile (fun c => !isBlank c) = x :: xs := List.takeWhile_eq_self_iff.mpr hfull
    simp only [lineText, parseLine, h1, hn.trim, h2, List.drop_length]
    rfl
  | cons o os =>
    obtain ⟨r1, r2, r3, r4⟩ := intercalate_plain h (by simp)
    have hs := (splitOn_intercalate_trim h (by simp)).1
    show parseLine (x :: xs ++ " ".toList ++ ", ".toList.intercalate (o :: os)) = _
    generalize ", ".toList.intercalate (o :: os) = r at r1 r2 r3 r4 hs ⊢
    have e : x :: xs ++ " ".toList ++ r = (x :: xs) ++ ' ' :: r := by simp
    obtain ⟨y, ys, hy⟩ := List.exists_cons_of_ne_nil r2
    have h1 : ((x :: xs) ++ ' ' :: r).takeWhile (· != ';') = (x :: xs) ++ ' ' :: r := by
      refine List.takeWhile_eq_self_iff.mpr fun c hc => ?_
      simp only [List.mem_append, List.mem_cons (a := c) (b := ' ')] at hc
      rcases hc with hc | rfl | hc
      · simp [(hn.2 c hc).2.2]
      · decide
      · simp [r1 c hc]
    have h2 : trimBlanks ((x :: xs) ++ ' ' :: r) = (x :: xs) ++ ' ' :: r := by
      refine trimBlanks_eq_self (by simpa using hx) fun c hc => r4 c ?_
      rw [hy, show (x :: xs) ++ ' ' :: y :: ys = ((x :: xs) ++ [' ']) ++ y :: ys by simp, List.getLast?_append_cons] at hc
      exact hy ▸ hc
    have h3 : ((x :: xs) ++ ' ' :: r).takeWhile (fun c => !isBlank c) = x :: xs := by
      rw [List.takeWhile_append_of_pos hfull]
      simp [show isBlank ' ' = true from rfl]
    have h4 : trimBlanks (((x :: xs) ++ ' ' :: r).drop (x :: xs).length) = r := by
      rw [List.drop_left, trimBlanks_blank_cons, trimBlanks_eq_self r3 r4]
    have h5 : r.isEmpty = false := by simp [r2]
    rw [e]
    simp only [parseLine, h1, h2, h3, h4, h5, hs]
    rfl

/-- What stands behind the first `;` of a line is not read (R68). -/
theorem parseLine_comment (cs comment : List Char) : parseLine (cs ++ ';' :: comment) = parseLine cs := by
  have h : (cs ++ ';' :: comment).takeWhile (· != ';') = cs.takeWhile (· != ';') := by
    induction cs with
    | nil => rfl
    | cons c cs ih => simp only [List.cons_append, List.takeWhile_cons, ih]
  simp only [parseLine, h]

end Sys2Proof.Machine
end

