-- ==== Sys2Proof/Laws/Encoding.lean ====
section
/-! SUPPORT. The fields of a command word and the words the encoder writes, on the numbers. -/

namespace Sys2Proof

theorem extractLsb'_toNat_eq (w : Word) (start len : Nat) :
    (w.extractLsb' start len).toNat = w.toNat / 2 ^ start % 2 ^ len := by
  rw [BitVec.extractLsb'_toNat, Nat.shiftRight_eq_div_pow]

theorem opField_toNat (w : Word) : (opField w).toNat = w.toNat / 2 ^ 30 := by
  rw [opField, extractLsb'_toNat_eq]
  have := w.isLt
  omega

theorem chField_toNat (w : Word) : (chField w).toNat = w.toNat / 2 ^ 25 % 2 ^ 5 := extractLsb'_toNat_eq w 25 5
theorem divField_toNat (w : Word) : (divField w).toNat = w.toNat / 2 ^ 20 % 2 ^ 5 := extractLsb'_toNat_eq w 20 5
theorem modeField_toNat (w : Word) : (modeField w).toNat = w.toNat / 2 ^ 16 % 2 ^ 4 := extractLsb'_toNat_eq w 16 4

theorem volField_toNat (w : Word) : (volField w).toNat = w.toNat % 2 ^ 16 := by
  rw [volField, extractLsb'_toNat_eq]
  simp

/-- The number of a CONFIGURE-format word (R60). -/
theorem configureWord_toNat (ch div : BitVec 5) (mode : BitVec 4) (vol : BitVec 16) :
    (configureWord ch div mode vol).toNat =
      1 * 2 ^ 30 + ch.toNat * 2 ^ 25 + div.toNat * 2 ^ 20 + mode.toNat * 2 ^ 16 + vol.toNat := by
  have a := ch.isLt
  have b := div.isLt
  have c := mode.isLt
  have d := vol.isLt
  unfold configureWord
  simp only [BitVec.toNat_append]
  rw [← Nat.shiftLeft_add_eq_or_of_lt a, ← Nat.shiftLeft_add_eq_or_of_lt b, ← Nat.shiftLeft_add_eq_or_of_lt c,
    ← Nat.shiftLeft_add_eq_or_of_lt d]
  simp only [Nat.shiftLeft_eq, BitVec.toNat_ofNat]
  omega

/-- The number of a READ_CONFIG or READ_AUDIBLE word (R62, R63). -/
theorem channelWord_toNat (op : BitVec 2) (ch : BitVec 5) :
    (channelWord op ch).toNat = op.toNat * 2 ^ 30 + ch.toNat * 2 ^ 25 := by
  have a := ch.isLt
  unfold channelWord
  simp only [BitVec.toNat_append]
  rw [← Nat.shiftLeft_add_eq_or_of_lt a, ← Nat.shiftLeft_add_eq_or_of_lt (show (0#25).toNat < 2 ^ 25 by decide)]
  simp only [Nat.shiftLeft_eq, BitVec.toNat_ofNat]
  omega

theorem opField_configureWord (ch div : BitVec 5) (mode : BitVec 4) (vol : BitVec 16) :
    opField (configureWord ch div mode vol) = 0b01#2 := by
  apply BitVec.eq_of_toNat_eq
  rw [opField_toNat, configureWord_toNat]
  have a := ch.isLt
  have b := div.isLt
  have c := mode.isLt
  have d := vol.isLt
  simp only [BitVec.toNat_ofNat]
  omega

theorem opField_channelWord (op : BitVec 2) (ch : BitVec 5) : opField (channelWord op ch) = op := by
  apply BitVec.eq_of_toNat_eq
  rw [opField_toNat, channelWord_toNat]
  have a := ch.isLt
  omega

end Sys2Proof
end

