-- ==== Sys2Proof/Laws/State.lean ====
section
/-! SUPPORT. The small lemmas of the state: one per field per named update, and reading a channel after each update. -/

namespace Sys2Proof.Machine

/-! ### Reading a channel -/

theorem State.ch_mk (chs : Vector Channel 32) (v : Div6Variant) (f : Option ChannelIndex) (inp : List Request)
    (os : List CommandOutcome) (i : ChannelIndex) : (State.mk chs v f inp os).ch i = chs[i] := rfl

@[simp] theorem State.ch_setCh_self (s : State) (i : ChannelIndex) (c : Channel) : (s.setCh i c).ch i = c := by
  simp [State.ch, State.setCh]

@[simp] theorem State.ch_setCh_ne (s : State) (i j : ChannelIndex) (c : Channel) (h : j ≠ i) :
    (s.setCh i c).ch j = s.ch j := by
  have : i.val ≠ j.val := fun e => h (Fin.ext e.symm)
  simp [State.ch, State.setCh, this]

theorem State.ch_setCh (s : State) (i j : ChannelIndex) (c : Channel) :
    (s.setCh i c).ch j = if j = i then c else s.ch j := by
  split
  · next h => subst h; simp
  · next h => simp [h]

@[simp] theorem State.ch_mapCh (s : State) (f : Channel → Channel) (i : ChannelIndex) :
    (s.mapCh f).ch i = f (s.ch i) := by
  simp [State.ch, State.mapCh]

/-- Two states with the same record at every channel have the same channel bank. -/
theorem State.channels_ext {s t : State} (h : ∀ i, s.ch i = t.ch i) : s.channels = t.channels := by
  apply Vector.ext
  intro i hi
  exact h ⟨i, hi⟩

/-- Two states are equal when every channel and every other field is. -/
theorem State.ext_ch {s t : State} (hc : ∀ i, s.ch i = t.ch i) (hv : s.div6Variant = t.div6Variant)
    (hf : s.firing = t.firing) (hi : s.input = t.input) (ho : s.outcomes = t.outcomes) : s = t := by
  have := State.channels_ext hc
  cases s; cases t; simp_all

/-! ### `setCh` -/

@[simp] theorem State.setCh_div6Variant (s : State) (i : ChannelIndex) (c : Channel) :
    (s.setCh i c).div6Variant = s.div6Variant := rfl
@[simp] theorem State.setCh_firing (s : State) (i : ChannelIndex) (c : Channel) : (s.setCh i c).firing = s.firing := rfl
@[simp] theorem State.setCh_input (s : State) (i : ChannelIndex) (c : Channel) : (s.setCh i c).input = s.input := rfl
@[simp] theorem State.setCh_outcomes (s : State) (i : ChannelIndex) (c : Channel) :
    (s.setCh i c).outcomes = s.outcomes := rfl

/-! ### `mapCh` -/

@[simp] theorem State.mapCh_div6Variant (s : State) (f : Channel → Channel) :
    (s.mapCh f).div6Variant = s.div6Variant := rfl
@[simp] theorem State.mapCh_firing (s : State) (f : Channel → Channel) : (s.mapCh f).firing = s.firing := rfl
@[simp] theorem State.mapCh_input (s : State) (f : Channel → Channel) : (s.mapCh f).input = s.input := rfl
@[simp] theorem State.mapCh_outcomes (s : State) (f : Channel → Channel) : (s.mapCh f).outcomes = s.outcomes := rfl

/-! ### `report` and the three answers -/

@[simp] theorem State.report_channels (s : State) (o : CommandOutcome) : (s.report o).channels = s.channels := rfl
@[simp] theorem State.report_ch (s : State) (o : CommandOutcome) (i : ChannelIndex) : (s.report o).ch i = s.ch i := rfl
@[simp] theorem State.report_div6Variant (s : State) (o : CommandOutcome) :
    (s.report o).div6Variant = s.div6Variant := rfl
@[simp] theorem State.report_firing (s : State) (o : CommandOutcome) : (s.report o).firing = s.firing := rfl
@[simp] theorem State.report_input (s : State) (o : CommandOutcome) : (s.report o).input = s.input := rfl
@[simp] theorem State.report_outcomes (s : State) (o : CommandOutcome) :
    (s.report o).outcomes = s.outcomes ++ [o] := rfl
theorem State.respond_eq (s : State) (w : Word) : s.respond w = s.report (.response w) := rfl
theorem State.complete_eq (s : State) : s.complete = s.report .done := rfl
theorem State.refuse_eq (s : State) (r : RefuseReason) : s.refuse r = s.report (.refused r) := rfl

/-! ### `issue` -/

@[simp] theorem State.issue_ch (s : State) (rs : List Request) (i : ChannelIndex) : (s.issue rs).ch i = s.ch i := rfl
@[simp] theorem State.issue_div6Variant (s : State) (rs : List Request) :
    (s.issue rs).div6Variant = s.div6Variant := rfl
@[simp] theorem State.issue_firing (s : State) (rs : List Request) : (s.issue rs).firing = s.firing := rfl
@[simp] theorem State.issue_input (s : State) (rs : List Request) : (s.issue rs).input = s.input ++ rs := rfl
@[simp] theorem State.issue_outcomes (s : State) (rs : List Request) : (s.issue rs).outcomes = s.outcomes := rfl

/-! ### The waiting requests -/

@[simp] theorem State.ch_with_input (s : State) (inp : List Request) (i : ChannelIndex) :
    ({ s with input := inp } : State).ch i = s.ch i := rfl
@[simp] theorem State.ch_with_firing (s : State) (f : Option ChannelIndex) (i : ChannelIndex) :
    ({ s with firing := f } : State).ch i = s.ch i := rfl
@[simp] theorem State.ch_with_outcomes (s : State) (os : List CommandOutcome) (i : ChannelIndex) :
    ({ s with outcomes := os } : State).ch i = s.ch i := rfl

/-! ### Channel updates -/

@[simp] theorem Channel.withRegs_divide (c : Channel) (p : Reg4 × Reg5) : (c.withRegs p).divide = c.divide := rfl
@[simp] theorem Channel.withRegs_mode (c : Channel) (p : Reg4 × Reg5) : (c.withRegs p).mode = c.mode := rfl
@[simp] theorem Channel.withRegs_volume (c : Channel) (p : Reg4 × Reg5) : (c.withRegs p).volume = c.volume := rfl
@[simp] theorem Channel.withRegs_counter (c : Channel) (p : Reg4 × Reg5) : (c.withRegs p).counter = c.counter := rfl
@[simp] theorem Channel.withRegs_reg4 (c : Channel) (p : Reg4 × Reg5) : (c.withRegs p).reg4 = p.1 := rfl
@[simp] theorem Channel.withRegs_reg5 (c : Channel) (p : Reg4 × Reg5) : (c.withRegs p).reg5 = p.2 := rfl

@[simp] theorem Channel.configured_divide (c : Channel) (d : BitVec 5) (m : BitVec 4) (v : BitVec 16) :
    (c.configured d m v).divide = d := rfl
@[simp] theorem Channel.configured_mode (c : Channel) (d : BitVec 5) (m : BitVec 4) (v : BitVec 16) :
    (c.configured d m v).mode = m := rfl
@[simp] theorem Channel.configured_volume (c : Channel) (d : BitVec 5) (m : BitVec 4) (v : BitVec 16) :
    (c.configured d m v).volume = v := rfl
@[simp] theorem Channel.configured_counter (c : Channel) (d : BitVec 5) (m : BitVec 4) (v : BitVec 16) :
    (c.configured d m v).counter = c.counter := rfl
@[simp] theorem Channel.configured_reg4 (c : Channel) (d : BitVec 5) (m : BitVec 4) (v : BitVec 16) :
    (c.configured d m v).reg4 = c.reg4 := rfl
@[simp] theorem Channel.configured_reg5 (c : Channel) (d : BitVec 5) (m : BitVec 4) (v : BitVec 16) :
    (c.configured d m v).reg5 = c.reg5 := rfl

@[simp] theorem Channel.advanceDivider_divide (c : Channel) : c.advanceDivider.divide = c.divide := rfl
@[simp] theorem Channel.advanceDivider_mode (c : Channel) : c.advanceDivider.mode = c.mode := rfl
@[simp] theorem Channel.advanceDivider_volume (c : Channel) : c.advanceDivider.volume = c.volume := rfl
@[simp] theorem Channel.advanceDivider_reg4 (c : Channel) : c.advanceDivider.reg4 = c.reg4 := rfl
@[simp] theorem Channel.advanceDivider_reg5 (c : Channel) : c.advanceDivider.reg5 = c.reg5 := rfl

@[simp] theorem Channel.fire_divide (v : Div6Variant) (c : Channel) : (c.fire v).divide = c.divide := rfl
@[simp] theorem Channel.fire_mode (v : Div6Variant) (c : Channel) : (c.fire v).mode = c.mode := rfl
@[simp] theorem Channel.fire_volume (v : Div6Variant) (c : Channel) : (c.fire v).volume = c.volume := rfl
@[simp] theorem Channel.fire_counter (v : Div6Variant) (c : Channel) : (c.fire v).counter = c.counter := rfl

@[simp] theorem Channel.tick_divide (v : Div6Variant) (c : Channel) : (c.tick v).divide = c.divide := by
  unfold Channel.tick; dsimp only; split <;> rfl
@[simp] theorem Channel.tick_mode (v : Div6Variant) (c : Channel) : (c.tick v).mode = c.mode := by
  unfold Channel.tick; dsimp only; split <;> rfl
@[simp] theorem Channel.tick_volume (v : Div6Variant) (c : Channel) : (c.tick v).volume = c.volume := by
  unfold Channel.tick; dsimp only; split <;> rfl
@[simp] theorem Channel.tick_counter (v : Div6Variant) (c : Channel) :
    (c.tick v).counter = c.advanceDivider.counter := by
  unfold Channel.tick; dsimp only; split <;> rfl

/-! ### Reset -/

@[simp] theorem State.resetWith_ch (p : Params) (i : ChannelIndex) :
    (State.resetWith p).ch i = Channel.resetWith p i := by
  simp [State.ch, State.resetWith]

end Sys2Proof.Machine
end

