-- ==== Sys2Proof/Laws/Ops.lean ====
section
/-! SUPPORT. What each shared operation can do, said once: the operands, applying a firing event, fetching, one step, the
shift, and the mixer's contribution. -/

namespace Sys2Proof.Machine

/-! ### Operands -/

theorem channelOperand_of_lt {ch : Nat} (h : ch < 32) : channelOperand ch = .ok ⟨ch, h⟩ := by
  simp [channelOperand, h]

theorem channelOperand_of_ge {ch : Nat} (h : 32 ≤ ch) : channelOperand ch = .error .channelRange := by
  simp [channelOperand, Nat.not_lt.mpr h]

/-- The operands of CONFIGURE, in R143's order. -/
theorem configureOperands_eq (ch div mode vol : Nat) :
    configureOperands ch div mode vol =
      if h : ch < 32 then
        if div < 32 then
          if mode < 16 then
            if vol < 65536 then
              .ok ⟨⟨ch, h⟩, BitVec.ofNat 5 div, BitVec.ofNat 4 mode, BitVec.ofNat 16 vol⟩
            else .error .volumeRange
          else .error .modeRange
        else .error .divideRange
      else .error .channelRange := by
  unfold configureOperands channelOperand divideOperand modeOperand volumeOperand
  by_cases h1 : ch < 32 <;> by_cases h2 : div < 32 <;> by_cases h3 : mode < 16 <;> by_cases h4 : vol < 65536 <;>
    simp [h1, h2, h3, h4, bind, Except.bind, pure, Except.pure]

/-! ### Applying a firing event -/

theorem State.applyFiring_none {s : State} (h : s.firing = none) (f : Reg4 → Reg5 → Reg4 × Reg5) :
    s.applyFiring f = s := by
  simp [State.applyFiring, h]

theorem State.applyFiring_some {s : State} {c : ChannelIndex} (h : s.firing = some c) (f : Reg4 → Reg5 → Reg4 × Reg5) :
    s.applyFiring f =
      { s.setCh c ((s.ch c).withRegs (f (s.ch c).reg4 (s.ch c).reg5)) with firing := none } := by
  simp [State.applyFiring, h]

/-! ### Fetching and stepping -/

/-- What a step finds to do: a pending firing event, the oldest request, or nothing. -/
theorem State.fetch_cases (s : State) :
    (∃ c, s.firing = some c ∧ s.fetch = .run (decodeMode (s.ch c).mode) s) ∨
    (s.firing = none ∧ s.input = [] ∧ s.fetch = .idle) ∨
    (∃ r rest i, s.firing = none ∧ s.input = r :: rest ∧ r.decode = .ok i ∧
      s.fetch = .run i { s with input := rest }) ∨
    (∃ r rest e, s.firing = none ∧ s.input = r :: rest ∧ r.decode = .error e ∧
      s.fetch = .refuse e { s with input := rest }) := by
  cases hf : s.firing with
  | some c => exact .inl ⟨c, rfl, by simp [State.fetch, hf]⟩
  | none =>
    cases hi : s.input with
    | nil => exact .inr (.inl ⟨rfl, rfl, by simp [State.fetch, hf, hi]⟩)
    | cons r rest =>
      cases hd : r.decode with
      | ok i => exact .inr (.inr (.inl ⟨r, rest, i, rfl, rfl, hd, by simp [State.fetch, hf, hi, hd]⟩))
      | error e => exact .inr (.inr (.inr ⟨r, rest, e, rfl, rfl, hd, by simp [State.fetch, hf, hi, hd]⟩))

/-- Everything one step can do. -/
theorem step_cases (s : State) :
    (∃ c, s.firing = some c ∧ step s = exec (decodeMode (s.ch c).mode) s) ∨
    (s.firing = none ∧ s.input = [] ∧ step s = .next s) ∨
    (∃ r rest i, s.firing = none ∧ s.input = r :: rest ∧ r.decode = .ok i ∧
      step s = exec i { s with input := rest }) ∨
    (∃ r rest e, s.firing = none ∧ s.input = r :: rest ∧ r.decode = .error e ∧
      step s = .next (({ s with input := rest } : State).refuse e)) := by
  rcases s.fetch_cases with ⟨c, hf, h⟩ | ⟨hf, hi, h⟩ | ⟨r, rest, i, hf, hi, hd, h⟩ | ⟨r, rest, e, hf, hi, hd, h⟩
  · exact .inl ⟨c, hf, by simp [step, h]⟩
  · exact .inr (.inl ⟨hf, hi, by simp [step, h]⟩)
  · exact .inr (.inr (.inl ⟨r, rest, i, hf, hi, hd, by simp [step, h]⟩))
  · exact .inr (.inr (.inr ⟨r, rest, e, hf, hi, hd, by simp [step, h]⟩))

/-! ### Running -/

@[simp] theorem runSteps_zero (s : State) : runSteps 0 s = .next s := rfl

theorem runSteps_succ {n : Nat} {s t : State} (h : step s = .next t) : runSteps (n + 1) s = runSteps n t := by
  simp [runSteps, h]

/-! ### Shifts and gates -/

/-- The bits of `(r << 1) | x`: bit 0 is `x`, every other bit is the bit below it (R13, R89). -/
theorem shiftIn_getLsbD {n : Nat} (r : BitVec n) (x : Bool) (k : Nat) :
    (shiftIn n r x).getLsbD k = (decide (k < n) && if k = 0 then x else r.getLsbD (k - 1)) := by
  unfold shiftIn
  cases k with
  | zero => by_cases h : 0 < n <;> simp [h]
  | succ k =>
    by_cases h : k + 1 < n
    · simp [h, BitVec.getLsbD_eq_getElem (show k < n by omega)]
    · simp [h]

/-! ### The mixer -/

/-- What a channel contributes is R127's summand: a volume of 0 contributes 0 either way. -/
theorem Channel.contribution_eq (c : Channel) :
    c.contribution = if c.audible then c.volume.toNat else 0 := by
  unfold Channel.contribution
  by_cases h : c.volume = 0
  · simp [h]
  · rw [if_neg h]

/-- The mixer's sum as a sum over the channel indices (R127). -/
theorem State.mixed_eq_sum (s : State) :
    s.mixed = ∑ i : ChannelIndex, if (s.ch i).audible then (s.ch i).volume.toNat else 0 := by
  unfold State.mixed
  rw [← List.sum_ofFn]
  congr 1
  apply List.ext_getElem
  · rw [List.length_map, Vector.length_toList, List.length_ofFn]
  · intro n h1 h2
    rw [List.getElem_ofFn, List.getElem_map, Channel.contribution_eq]
    rfl

@[simp] theorem State.tickAll_ch (s : State) (i : ChannelIndex) :
    s.tickAll.ch i = (s.ch i).tick s.div6Variant := by
  simp [State.tickAll]

end Sys2Proof.Machine
end

