-- ==== Sys2Proof/Laws/PerInstr.lean ====
section
/-! SUPPORT. Statements made for every instruction, one lemma per constructor. -/

namespace Sys2Proof.Laws

/-! ### The encoding of an instruction is of the kind its row of the opcode table is -/

/-- The op field that R59 gives each command, and `none` for a mode, which is no command word (R55). -/
def opOf (i : Instr) : Option (BitVec 2) :=
  match i with
  | .nextSample => some 0b00#2
  | .configure _ _ _ _ => some 0b01#2
  | .readConfig _ => some 0b10#2
  | .readAudible _ => some 0b11#2
  | _ => none

/-- A mode is encoded as a mode field, a command as a command word whose bits [31:30] are its op (R55, R59). -/
def EncodingKind.Statement (i : Instr) : Prop :=
  match encode i with
  | .modeField _ => opOf i = none
  | .commandWord w => opOf i = some (opField w)

namespace EncodingKind

theorem mode0 : Statement .mode0 := rfl
theorem mode1 : Statement .mode1 := rfl
theorem mode2 : Statement .mode2 := rfl
theorem mode3 : Statement .mode3 := rfl
theorem mode4 : Statement .mode4 := rfl
theorem mode5 : Statement .mode5 := rfl
theorem mode6 : Statement .mode6 := rfl
theorem mode7 : Statement .mode7 := rfl
theorem mode8 : Statement .mode8 := rfl
theorem mode9 : Statement .mode9 := rfl
theorem mode10 : Statement .mode10 := rfl
theorem mode11 : Statement .mode11 := rfl
theorem mode12 : Statement .mode12 := rfl
theorem mode13 : Statement .mode13 := rfl
theorem mode14 : Statement .mode14 := rfl
theorem mode15 : Statement .mode15 := rfl
theorem nextSample : Statement .nextSample := rfl

theorem configure (ch div mode vol : Nat) : Statement (.configure ch div mode vol) :=
  congrArg some (opField_configureWord _ _ _ _).symm

theorem readConfig (ch : Nat) : Statement (.readConfig ch) := congrArg some (opField_channelWord _ _).symm

theorem readAudible (ch : Nat) : Statement (.readAudible ch) := congrArg some (opField_channelWord _ _).symm

end EncodingKind

end Sys2Proof.Laws
end

