-- ==== Sys2Proof/Laws/Run.lean ====
section
/-! SUPPORT. What a meaning does not look at, and how a run unfolds: `execRequest` is what one request does to a state
between commands, and a run of requests is one `execRequest` after another. -/

namespace Sys2Proof.Machine

/-- The state a meaning answers; every meaning answers one. -/
def execState (i : Instr) (s : State) : State :=
  match exec i s with
  | .next t => t
  | .fault _ => s
  | .refused _ => s

theorem execState_of_next {i : Instr} {s t : State} (h : exec i s = .next t) : execState i s = t := by
  simp [execState, h]

/-- CONFIGURE either writes one channel or reports a refusal. -/
theorem execConfigure_cases (ch div mode vol : Nat) :
    (∃ o, configureOperands ch div mode vol = .ok o ∧ ∀ s, exec (.configure ch div mode vol) s =
      .next (s.setCh o.ch ((s.ch o.ch).configured o.divide o.mode o.volume)).complete) ∨
    (∃ r, configureOperands ch div mode vol = .error r ∧ ∀ s, exec (.configure ch div mode vol) s = .next (s.refuse r)) := by
  cases h : configureOperands ch div mode vol with
  | ok o => exact .inl ⟨o, rfl, fun s => by simp [exec, execConfigure, h]⟩
  | error r => exact .inr ⟨r, rfl, fun s => by simp [exec, execConfigure, h]⟩

/-- READ_CONFIG either responds one channel's configuration or reports a refusal. -/
theorem execReadConfig_cases (ch : Nat) :
    (∃ i, channelOperand ch = .ok i ∧ ∀ s, exec (.readConfig ch) s = .next (s.respond (configResponse i (s.ch i)))) ∨
    (∃ r, channelOperand ch = .error r ∧ ∀ s, exec (.readConfig ch) s = .next (s.refuse r)) := by
  cases h : channelOperand ch with
  | ok i => exact .inl ⟨i, rfl, fun s => by simp [exec, execReadConfig, h]⟩
  | error r => exact .inr ⟨r, rfl, fun s => by simp [exec, execReadConfig, h]⟩

/-- READ_AUDIBLE either responds one channel's audible bit or reports a refusal. -/
theorem execReadAudible_cases (ch : Nat) :
    (∃ i, channelOperand ch = .ok i ∧ ∀ s, exec (.readAudible ch) s = .next (s.respond (audibleResponse (s.ch i)))) ∨
    (∃ r, channelOperand ch = .error r ∧ ∀ s, exec (.readAudible ch) s = .next (s.refuse r)) := by
  cases h : channelOperand ch with
  | ok i => exact .inl ⟨i, rfl, fun s => by simp [exec, execReadAudible, h]⟩
  | error r => exact .inr ⟨r, rfl, fun s => by simp [exec, execReadAudible, h]⟩

theorem exec_eq_execState (i : Instr) (s : State) : exec i s = .next (execState i s) := by
  cases i
  case configure ch div mode vol =>
    rcases execConfigure_cases ch div mode vol with ⟨o, -, h⟩ | ⟨r, -, h⟩ <;> rw [execState_of_next (h s), h s]
  case readConfig ch =>
    rcases execReadConfig_cases ch with ⟨o, -, h⟩ | ⟨r, -, h⟩ <;> rw [execState_of_next (h s), h s]
  case readAudible ch =>
    rcases execReadAudible_cases ch with ⟨o, -, h⟩ | ⟨r, -, h⟩ <;> rw [execState_of_next (h s), h s]
  all_goals rfl

theorem State.applyFiring_with_input (s : State) (f : Reg4 → Reg5 → Reg4 × Reg5) (inp : List Request) :
    ({ s with input := inp } : State).applyFiring f = { s.applyFiring f with input := inp } := by
  obtain ⟨_, _, f0, _, _⟩ := s
  cases f0 <;> rfl

/-- No meaning reads or writes the waiting requests. -/
theorem execState_with_input (i : Instr) (s : State) (inp : List Request) :
    execState i { s with input := inp } = { execState i s with input := inp } := by
  cases i
  case nextSample => rfl
  case configure ch div mode vol =>
    rcases execConfigure_cases ch div mode vol with ⟨o, -, h⟩ | ⟨r, -, h⟩ <;>
      · rw [execState_of_next (h s), execState_of_next (h _)]; rfl
  case readConfig ch =>
    rcases execReadConfig_cases ch with ⟨o, -, h⟩ | ⟨r, -, h⟩ <;>
      · rw [execState_of_next (h s), execState_of_next (h _)]; rfl
  case readAudible ch =>
    rcases execReadAudible_cases ch with ⟨o, -, h⟩ | ⟨r, -, h⟩ <;>
      · rw [execState_of_next (h s), execState_of_next (h _)]; rfl
  all_goals exact State.applyFiring_with_input s _ inp

/-- No meaning starts a firing event. -/
theorem execState_firing (i : Instr) (s : State) (hf : s.firing = none) : (execState i s).firing = none := by
  cases i
  case nextSample => exact hf
  case configure ch div mode vol =>
    rcases execConfigure_cases ch div mode vol with ⟨o, -, h⟩ | ⟨r, -, h⟩ <;>
      · rw [execState_of_next (h s)]; exact hf
  case readConfig ch =>
    rcases execReadConfig_cases ch with ⟨o, -, h⟩ | ⟨r, -, h⟩ <;>
      · rw [execState_of_next (h s)]; exact hf
  case readAudible ch =>
    rcases execReadAudible_cases ch with ⟨o, -, h⟩ | ⟨r, -, h⟩ <;>
      · rw [execState_of_next (h s)]; exact hf
  all_goals exact (congrArg State.firing (State.applyFiring_none hf _)).trans hf

/-- What one request does to a state between commands. -/
def execRequest (s : State) (r : Request) : State :=
  match r.decode with
  | .ok i => execState i s
  | .error e => s.refuse e

theorem execRequest_with_input (s : State) (r : Request) (inp : List Request) :
    execRequest { s with input := inp } r = { execRequest s r with input := inp } := by
  unfold execRequest
  split
  · exact execState_with_input _ _ _
  · rfl

theorem execRequest_firing (s : State) (r : Request) (h : s.firing = none) : (execRequest s r).firing = none := by
  unfold execRequest
  split
  · exact execState_firing _ _ h
  · exact h

/-- The step that takes the oldest request. -/
theorem step_request (s : State) (r : Request) (rest : List Request) (hf : s.firing = none) :
    step { s with input := r :: rest } = .next { execRequest s r with input := rest } := by
  rw [← execRequest_with_input]
  unfold step State.fetch execRequest
  simp only [hf]
  cases r.decode with
  | ok i => exact exec_eq_execState _ _
  | error e => rfl

/-- A run, unfolded: the requests are executed one after another. -/
theorem runSteps_requests (rs : List Request) (s : State) (hf : s.firing = none) :
    runSteps rs.length { s with input := rs } = .next { rs.foldl execRequest s with input := [] } := by
  induction rs generalizing s with
  | nil => rfl
  | cons r rest ih =>
    rw [List.length_cons, runSteps_succ (step_request s r rest hf)]
    exact ih (execRequest s r) (execRequest_firing s r hf)

theorem execRequest_input (s : State) (r : Request) : (execRequest s r).input = s.input := by
  have h := execRequest_with_input s r s.input
  have e := congrArg (fun t => t.input) h
  exact e

theorem foldl_execRequest_input (rs : List Request) (s : State) : (rs.foldl execRequest s).input = s.input := by
  induction rs generalizing s with
  | nil => rfl
  | cons r rest ih => exact (ih _).trans (execRequest_input s r)

theorem foldl_execRequest_firing (rs : List Request) (s : State) (h : s.firing = none) :
    (rs.foldl execRequest s).firing = none := by
  induction rs generalizing s with
  | nil => exact h
  | cons r rest ih => exact ih _ (execRequest_firing s r h)

/-- A run from a state between commands is the requests executed one after another. -/
theorem runRequests_eq (s : State) (rs : List Request) (h : s.Ready) :
    runRequests s rs = .next (rs.foldl execRequest s) := by
  have hi : (rs.foldl execRequest s).input = [] := (foldl_execRequest_input rs s).trans h.2
  unfold runRequests State.issue
  rw [h.2, List.nil_append, runSteps_requests rs s h.1, ← hi]

/-! ### Single requests -/

@[simp] theorem execRequest_nextSample (s : State) :
    execRequest s .nextSample = s.tickAll.respond (sampleResponse s.tickAll.mixed) := rfl

end Sys2Proof.Machine
end

