-- ==== Sys2Proof/Tests/Slice0.lean ====
section
/-! SUPPORT. The model's own tests: words and vectors written out from the spec (30_encoding.md, the Example lines of
41_waveform_engine.md, 95_test_vectors.md), and for every statement with hypotheses a witness that meets them. -/

namespace Sys2Proof.Tests
open Sys2Proof Sys2Proof.Machine

/-! ### WellFormed refuses each ill-formed operand (R142), in R143's order (V-E17 to V-E19) -/

theorem test_wf_channel : (Instr.configure 32 0 0 0).check = some .channelRange := by decide
theorem test_wf_divide : (Instr.configure 31 32 0 0).check = some .divideRange := by decide
theorem test_wf_mode : (Instr.configure 0 0 16 0).check = some .modeRange := by decide
theorem test_wf_volume : (Instr.configure 0 0 0 65536).check = some .volumeRange := by decide
theorem test_wf_order : (Instr.configure 0 32 16 70000).check = some .divideRange := by decide
theorem test_wf_read_config : (Instr.readConfig 32).check = some .channelRange := by decide
theorem test_wf_read_audible : (Instr.readAudible 32).check = some .channelRange := by decide
theorem test_wf_accepts_limits : (Instr.configure 31 31 15 65535).WellFormed := by decide

/-! ### Words written out from the spec's encodings decode to their instructions (R56, R60 to R63) -/

theorem test_decode_mode_fields_low :
    decodeMode 0b0000 = .mode0 ∧ decodeMode 0b0001 = .mode1 ∧ decodeMode 0b0010 = .mode2 ∧ decodeMode 0b0011 = .mode3 ∧
    decodeMode 0b0100 = .mode4 ∧ decodeMode 0b0101 = .mode5 ∧ decodeMode 0b0110 = .mode6 ∧ decodeMode 0b0111 = .mode7 := by
  decide

theorem test_decode_mode_fields_high :
    decodeMode 0b1000 = .mode8 ∧ decodeMode 0b1001 = .mode9 ∧ decodeMode 0b1010 = .mode10 ∧ decodeMode 0b1011 = .mode11 ∧
    decodeMode 0b1100 = .mode12 ∧ decodeMode 0b1101 = .mode13 ∧ decodeMode 0b1110 = .mode14 ∧
    decodeMode 0b1111 = .mode15 := by
  decide

theorem test_decode_next_sample : decodeTableWord 32 0 = some .nextSample := by decide

/-- 01 00011 11111 0100 0000010010110000, `CFG 3, 31, 4, 1200` (V-E4). -/
theorem test_decode_configure :
    decodeTableWord 32 0b01000111111101000000010010110000 = some (.configure 3 31 4 1200) := by decide

/-- 10 00011 and 25 zeros, `RDCFG 3` (V-E10). -/
theorem test_decode_read_config : decodeTableWord 32 0b10000110000000000000000000000000 = some (.readConfig 3) := by decide

/-- 11 11111 and 25 zeros, `RDAUD 31` (V-E14). -/
theorem test_decode_read_audible : decodeTableWord 32 0b11111110000000000000000000000000 = some (.readAudible 31) := by
  decide

/-- V-E8, V-E9, V-E11 and V-E12. -/
theorem test_decode_reserved :
    decodeCommand 0x00000001 = .error .reservedBits ∧ decodeCommand 0x3FFFFFFF = .error .reservedBits ∧
    decodeCommand 0x86000001 = .error .reservedBits ∧ decodeCommand 0xC7000000 = .error .reservedBits := by
  decide

theorem test_decode_table_mode : decodeTableWord 8 0xB = some .mode11 ∧ decodeTableWord 8 0x10 = none := by decide

/-- V-E1, V-E3 and V-E5 as the encoder writes them. -/
theorem test_encode_configure :
    encode (.configure 0 0 1 1000) = .commandWord 0x400103E8 ∧ encode (.configure 31 31 15 65535) = .commandWord 0x7FFFFFFF ∧
    encode (.configure 5 0 8 300) = .commandWord 0x4A08012C := by
  decide

theorem test_bytes_little_endian : wordBytes 0x47F404B0 = [0xB0, 0x04, 0xF4, 0x47] := by decide

/-! ### The assembler (R68, R69) -/

theorem test_assemble_text :
    (assembleText "CFG 3, 0x1F, MODE4, 1200 ; P4\nRUN 2\n\nRDAUD 3\nRDCFG 3".toList).toOption =
      some [0x47F404B0, 0, 0, 0xC6000000, 0x86000000] := by
  decide

theorem test_assemble_errors :
    (assembleText "CFG 32, 0, 0, 0".toList).toOption = none ∧ (assembleText "RUN 0".toList).toOption = none ∧
    (assembleText "CFG 0, 0, 0".toList).toOption = none ∧ (assembleText "WORD 1".toList).toOption = none := by
  decide

/-! ### One firing of each mode: the Example lines of R100 to R115 and V-M4 -/

/-- A state with a firing event pending at channel 2, whose mode and registers are given, under a variant. -/
def firingState (v : Div6Variant) (m : BitVec 4) (r4 : Reg4) (r5 : Reg5) : State :=
  let s := State.resetWith { Config.params with resetMode := 0, div6Variant := v }
  { s.setCh 2 { divide := 5, mode := m, volume := 7, counter := 3, reg4 := r4, reg5 := r5 } with firing := some 2 }

/-- What a step leaves in channel 2's registers. -/
def regsAfter (s : State) : Option (Reg4 × Reg5) :=
  match step s with
  | .next t => some ((t.ch 2).reg4, (t.ch 2).reg5)
  | _ => none

theorem test_mode0 : regsAfter (firingState .asWritten 0 0x7 0x15) = some (0xF, 0x15) := by decide
theorem test_mode1 : regsAfter (firingState .asWritten 1 0xF 0x15) = some (0xE, 0x15) := by decide
theorem test_mode1_zero_lock : regsAfter (firingState .asWritten 1 0x0 0x00) = some (0x1, 0x00) := by decide
theorem test_mode2_open : regsAfter (firingState .asWritten 2 0x5 0x3C) = some (0xB, 0x38) := by decide
theorem test_mode2_closed : regsAfter (firingState .asWritten 2 0x5 0x13) = some (0x5, 0x27) := by decide
theorem test_mode3_open : regsAfter (firingState .asWritten 3 0x5 0x0F) = some (0xB, 0x1F) := by decide
theorem test_mode3_closed : regsAfter (firingState .asWritten 3 0x5 0x07) = some (0x5, 0x0F) := by decide
theorem test_mode4 : regsAfter (firingState .asWritten 4 0xA 0x2F) = some (0x5, 0x2F) := by decide
theorem test_mode5 : regsAfter (firingState .asWritten 5 0xA 0x2F) = some (0x5, 0x2F) := by decide
theorem test_mode6_open : regsAfter (firingState .asWritten 6 0x5 0x1C) = some (0xA, 0x38) := by decide
theorem test_mode6_closed : regsAfter (firingState .asWritten 6 0x0 0x27) = some (0x0, 0x0F) := by decide
theorem test_mode7_open : regsAfter (firingState .asWritten 7 0x1 0x0F) = some (0x2, 0x1F) := by decide
theorem test_mode7_closed : regsAfter (firingState .asWritten 7 0x1 0x07) = some (0x1, 0x0F) := by decide
theorem test_mode8 : regsAfter (firingState .asWritten 8 0x8 0x10) = some (0x1, 0x20) := by decide
theorem test_mode8_no_injection : regsAfter (firingState .asWritten 8 0x1 0x00) = some (0x2, 0x00) := by decide
theorem test_mode9 : regsAfter (firingState .asWritten 9 0x0 0x10) = some (0x1, 0x21) := by decide
theorem test_mode9_old_bit5 : regsAfter (firingState .asWritten 9 0xA 0x20) = some (0x4, 0x01) := by decide
theorem test_mode10_open : regsAfter (firingState .asWritten 10 0x5 0x14) = some (0xA, 0x28) := by decide
theorem test_mode10_closed : regsAfter (firingState .asWritten 10 0x0 0x27) = some (0x0, 0x0F) := by decide
theorem test_mode11 : regsAfter (firingState .asWritten 11 0x7 0x15) = some (0xF, 0x15) := by decide
theorem test_mode12 : regsAfter (firingState .negatedFeedback 12 0x0 0x15) = some (0xE, 0x15) := by decide
theorem test_mode13 : regsAfter (firingState .asWritten 13 0x0 0x15) = some (0xF, 0x15) := by decide
theorem test_mode14_open : regsAfter (firingState .twistedRing 14 0x5 0x1C) = some (0xA, 0x38) := by decide
theorem test_mode14_closed : regsAfter (firingState .asWritten 14 0x0 0x27) = some (0x0, 0x0F) := by decide
theorem test_mode15_open : regsAfter (firingState .asWritten 15 0x0 0x0F) = some (0xF, 0x1F) := by decide
theorem test_mode15_closed : regsAfter (firingState .asWritten 15 0x0 0x07) = some (0x0, 0x0F) := by decide

/-! ### The four commands -/

/-- The reset state with one channel's record set and one word issued. -/
def issued (i : ChannelIndex) (c : Channel) (w : Word) : State :=
  { State.reset.setCh i c with input := [.word w] }

/-- What a step reports last. -/
def lastOutcome (s : State) : Option CommandOutcome :=
  match step s with
  | .next t => t.outcomes.getLast?
  | _ => none

/-- What a step leaves of channel 3. -/
def channelAfter (s : State) : Option Channel :=
  match step s with
  | .next t => some (t.ch 3)
  | _ => none

def sampleChannel : Channel := { divide := 31, mode := 4, volume := 1200, counter := 40, reg4 := 0xA, reg5 := 0x2C }

/-- `CFG 3, 3, 4, 1200` keeps counter and registers (R70). -/
theorem test_configure :
    channelAfter (issued 3 sampleChannel 0x463404B0) = some { sampleChannel with divide := 3 } := by decide

/-- R71's example: `RDCFG 3` responds 0x47F404B0. -/
theorem test_read_config : lastOutcome (issued 3 sampleChannel 0x86000000) = some (.response 0x47F404B0) := by decide

/-- R72's example: with `reg4 = 0xA`, `RDAUD 3` responds 1. -/
theorem test_read_audible : lastOutcome (issued 3 sampleChannel 0xC6000000) = some (.response 0x00000001) := by decide

/-- V-D6: with d = 3 and counter 40 the tick wraps to 0 and fires. -/
theorem test_next_sample_wraps :
    channelAfter (issued 3 { sampleChannel with divide := 3 } 0x00000000) =
      some { sampleChannel with divide := 3, counter := 0, reg4 := 0x5 } := by
  decide

/-- V-X4 on one channel and V-X9: 65535 wraps to −1; only channel 3 is heard, its counter 40 counting on to 41. -/
theorem test_next_sample_response :
    lastOutcome (issued 3 { sampleChannel with volume := 65535 } 0x00000000) = some (.response 0xFFFFFFFF) := by decide

/-- P7: a word with a reserved bit set is refused and its caller told so. -/
theorem test_refused_word : lastOutcome (issued 3 sampleChannel 0x86000001) = some (.refused .reservedBits) := by decide

/-- V-E19 as a typed request: refused with the first reason, and no channel changed. -/
theorem test_refused_typed :
    lastOutcome { State.reset with input := [.configure 0 32 16 70000] } = some (.refused .divideRange) ∧
    channelAfter { State.reset.setCh 3 sampleChannel with input := [.configure 3 0 16 0] } = some sampleChannel := by
  decide

/-- The rows run as the first step after reset. -/
def completes (s : State) : Bool :=
  match step s with
  | .next _ => true
  | _ => false

theorem test_rows_run_after_reset :
    (∀ n < 16, completes (State.reset.withFetchWord 8 n) = true) ∧
    completes (State.reset.withFetchWord 32 0x00000000) = true ∧ completes (State.reset.withFetchWord 32 0x40000000) = true ∧
    completes (State.reset.withFetchWord 32 0x80000000) = true ∧
    completes (State.reset.withFetchWord 32 0xC0000000) = true := by
  decide

/-! ### Witnesses: states and operands that meet the statements' hypotheses -/

/-- For RefusedRequestsTransparent, RunsCompose, ConfigureInForceNextSample and EveryCommandCompletes. -/
theorem witness_ready : State.reset.Ready := ⟨rfl, rfl⟩

/-- The least counts and lengths that the clauses "for all n from …" assume: CommandBytesLittleEndian, ShiftAndGateFormulas,
Mode0Firing to Mode12Firing, AssembledWordsDecode, AccumulatorWidthImmaterial. -/
theorem witness_boundary_counts :
    3 < 4 ∧ ([0, 0, 0] : List Byte).length < 4 ∧ 4 ≤ 4 ∧ 3 ≤ 3 ∧ 16 ≤ 16 ∧ 48 ≤ 48 ∧ 61 ≤ 61 ∧ (0 < 15 ∧ (1 : Reg4) ≠ 0) ∧
    1 ≤ 1 := by
  decide

theorem witness_decodeEncodeRoundTrip :
    (Instr.configure 31 31 15 65535).WellFormed ∧ (Instr.readConfig 31).WellFormed ∧ Instr.mode15.WellFormed := by decide

theorem witness_encodeDecodeRoundTrip : decode (.commandWord 0xFE000000) = .ok (.readAudible 31) := by decide

/-- Operands written in each of R68's ways, an unknown name, and lines whose operands fit and do not fit. -/
theorem witness_assembledWordsDecode :
    (SpellsNumber "31".toList 31 ∧ SpellsNumber "0x1f".toList 31 ∧ SpellsMode "MODE15".toList 15 ∧ SpellsMode "0".toList 0 ∧
      SpellsNumber "65535".toList 65535) ∧
    "WORD".toList ∉ ["SAMPLE", "CFG", "RDCFG", "RDAUD", "RUN", "CFGALL"].map String.toList ∧
    (AsmLine.run 1).expand = .ok [.nextSample] ∧ (∀ i ∈ [Instr.nextSample], i.WellFormed) ∧
    (AsmLine.cfg 32 0 0 0).expand = .ok [.configure 32 0 0 0] ∧ ∃ i ∈ [Instr.configure 32 0 0 0], ¬ i.WellFormed := by
  refine ⟨⟨.inl (by decide), .inr (by decide), .inr ⟨by decide, by decide⟩, .inl (.inl (by decide)), .inl (by decide)⟩,
    by decide, rfl, by decide, rfl, ⟨_, List.mem_singleton.mpr rfl, by decide⟩⟩

/-- A line as the statements write one is the line R68 writes. -/
theorem test_line_text :
    lineText "CFG".toList ["3".toList, "0x1f".toList, "MODE4".toList, "1200".toList] = "CFG 3, 0x1f, MODE4, 1200".toList := by
  decide

theorem witness_stepRunsDecodedRequest :
    (issued 3 sampleChannel 0x86000000).firing = none ∧
    (issued 3 sampleChannel 0x86000000).input = .word 0x86000000 :: [] ∧
    (Request.word 0x86000000).decode = .ok (.readConfig 3) := by
  refine ⟨rfl, rfl, by decide⟩

theorem witness_stepWithoutRequest :
    (firingState .asWritten 9 1 1).firing = some 2 ∧
    decode (.modeField ((firingState .asWritten 9 1 1).ch 2).mode) = .ok .mode9 ∧
    State.reset.firing = none ∧ State.reset.input = [] := by
  refine ⟨rfl, by decide, rfl, rfl⟩

theorem witness_everyCommandCompletes :
    (∀ m, Instr.configure 31 31 15 65535 ≠ decodeMode m) ∧ (Instr.configure 31 31 15 65535).WellFormed ∧
    31 < 32 ∧ 15 < 16 ∧ 65535 < 65536 ∧
    (issued 3 sampleChannel 0x86000000).firing = none ∧ (issued 3 sampleChannel 0x86000000).input ≠ [] := by
  refine ⟨by decide, by decide, by decide, by decide, by decide, rfl, ?_⟩
  intro h; cases h

theorem witness_stepKeepsBetweenCommands :
    (issued 3 sampleChannel 0x86000000).firing = none ∧ ∃ t, step (issued 3 sampleChannel 0x86000000) = .next t :=
  ⟨rfl, _, step_request (State.reset.setCh 3 sampleChannel) _ [] rfl⟩

theorem witness_refusedRequestChangesNothing :
    (issued 3 sampleChannel 0x3FFFFFFF).firing = none ∧
    (issued 3 sampleChannel 0x3FFFFFFF).input = .word 0x3FFFFFFF :: [] ∧
    (Request.word 0x3FFFFFFF).decode = .error .reservedBits := by
  refine ⟨rfl, rfl, by decide⟩

/-- Each clause of the order at the first value that does not fit. -/
theorem witness_refusalReasonOrder :
    (Request.configure 32 32 16 65536).decode = .error .channelRange ∧
    (Request.configure 31 32 16 65536).decode = .error .divideRange ∧
    (Request.configure 31 31 16 65536).decode = .error .modeRange ∧
    (Request.configure 31 31 15 65536).decode = .error .volumeRange ∧
    (Request.configure 31 31 15 65535).decode = .ok (.configure 31 31 15 65535) ∧
    (Request.readConfig 32).decode = .error .channelRange ∧ (Request.readAudible 31).decode = .ok (.readAudible 31) ∧
    (Request.word 1).decode = .error .reservedBits ∧ (Instr.readAudible 32).check = some .channelRange := by
  decide

theorem witness_configureOperandsFit : 31 < 32 ∧ 15 < 16 ∧ 65535 < 65536 ∧ 0 < 32 := by decide

theorem witness_commandSideEffects : ∃ ch, Instr.readConfig 31 = .readConfig ch ∨ Instr.readConfig 31 = .readAudible ch :=
  ⟨31, .inl rfl⟩

theorem witness_writersKeepToTheirFields :
    (∀ ch div mode vol, Instr.nextSample ≠ .configure ch div mode vol) ∧ Instr.mode3 ≠ .nextSample ∧
    (∃ ch div mode vol, Instr.configure 31 0 0 0 = .configure ch div mode vol) ∧
    (∃ ch, Instr.readAudible 0 = .readConfig ch ∨ Instr.readAudible 0 = .readAudible ch) := by
  refine ⟨fun _ _ _ _ h => (by cases h), by decide, ⟨_, _, _, _, rfl⟩, ⟨0, .inr rfl⟩⟩

/-- A state between commands whose channel 3 has a given mode, divisor and counter. -/
def betweenCommandsWith (m : BitVec 4) (d : BitVec 5) (n : BitVec 6) : State :=
  State.reset.setCh 3 { sampleChannel with mode := m, divide := d, counter := n }

/-- A firing event pending at the last channel: what FiresAs assumes, for every mode. -/
theorem witness_firesAs (m : BitVec 4) :
    (State.reset.withFiring 31 m).firing = some 31 ∧ ((State.reset.withFiring 31 m).ch 31).mode = m :=
  ⟨rfl, congrArg Channel.mode (State.ch_setCh_self State.reset 31 _)⟩

/-- A channel holding a given mode, in a tick in which it fires and in one in which it does not: what NextSampleApplies
assumes, with both its cases. -/
theorem witness_nextSampleApplies (m : BitVec 4) :
    ((betweenCommandsWith m 3 40).ch 3).mode = m ∧
    ((betweenCommandsWith m 3 40).ch 3).advanceDivider.fires = true ∧
    ((betweenCommandsWith m 31 40).ch 3).advanceDivider.fires = false := by
  refine ⟨?_, ?_, ?_⟩ <;> rw [betweenCommandsWith, State.ch_setCh_self] <;> rfl

theorem witness_readConfigShowsMode :
    ((State.reset.setCh 31 { sampleChannel with mode := 11 }).ch 31).mode = 11 ∧
    ((State.reset.setCh 0 { sampleChannel with mode := 5 }).ch 0).mode = 5 ∧
    ((State.reset.setCh 7 { sampleChannel with mode := 13 }).ch 7).mode = 13 := by
  refine ⟨by simp, by simp, by simp⟩

theorem witness_mode2Gate : gate31 (step5 0x3C) = true := by decide

theorem witness_mode6Settled : ((0x5 : Reg4) = 0x5 ∨ (0x5 : Reg4) = 0xA) ∧ gate31 (step5 0x3C) = true := by decide

theorem witness_mode9ZeroP5 : (0x20 : Reg5).toNat % 32 = 0 := by decide

theorem witness_mode12Classes :
    (0x0 : Reg4) ∉ [0x5, 0xA, 0x2, 0xD] ∧ (0xD : Reg4) ∈ [0x5, 0xA, 0x2, 0xD] ∧ Div6Variant.twistedRing ≠ .asWritten := by
  decide

theorem witness_lfsrPeriods : (0xF : Reg4) ≠ 0 ∧ (0x3F : Reg5).toNat % 32 ≠ 0 ∧ jointValue (0x0, 0x01) ≠ 0 := by decide

theorem witness_extensionBitNeverRead :
    (0x00 : Reg5) &&& 0x1F = 0x20 &&& 0x1F ∧ (8#4) ∈ [2#4, 3, 6, 7, 8, 9, 10, 14, 15] ∧
    (0#4) ∈ [0#4, 1, 4, 5, 11, 12, 13] := by
  decide

theorem witness_counterRangeKept : State.reset.CountersInRange := by
  intro i
  show ((State.resetWith Config.params).ch i).counter.toNat ≤ _
  rw [State.resetWith_ch]
  simp [Channel.resetWith]

/-- A state between commands whose channel 3 has the counter 40 of V-D5. -/
def betweenCommands : State := State.reset.setCh 3 sampleChannel

/-- The two cases of a tick after a CONFIGURE: d = 3 wraps the counter 40, d = 20 lets it count on to 41, the last value
below the limit 42; at d = 19 the new limit 40 is passed. -/
theorem witness_dividerAfterReconfigure :
    betweenCommands.Ready ∧ 2 * (3 : BitVec 5).toNat + 2 ≤ (betweenCommands.ch 3).counter.toNat + 1 ∧
    (betweenCommands.ch 3).counter.toNat + 1 < 2 * (20 : BitVec 5).toNat + 2 ∧
    2 * (19 : BitVec 5).toNat + 2 ≤ (betweenCommands.ch 3).counter.toNat + 1 := by
  refine ⟨⟨rfl, rfl⟩, ?_, ?_, ?_⟩ <;> simp [betweenCommands, sampleChannel]

theorem witness_firingEveryDividePlusOneTicks : State.reset.Ready ∧ (State.reset.ch 31).counter = 0 := by
  refine ⟨⟨rfl, rfl⟩, ?_⟩
  show ((State.resetWith Config.params).ch 31).counter = 0
  rw [State.resetWith_ch]
  rfl

theorem witness_channelOrderImmaterial : (List.finRange 32).reverse.Perm (List.finRange 32) := List.reverse_perm _

theorem witness_channelsIndependent :
    State.reset.Ready ∧ betweenCommands.Ready ∧ State.reset.div6Variant = betweenCommands.div6Variant ∧
    State.reset.ch 4 = betweenCommands.ch 4 ∧ State.reset.ch 3 ≠ betweenCommands.ch 3 := by
  refine ⟨⟨rfl, rfl⟩, ⟨rfl, rfl⟩, rfl, ?_, ?_⟩
  · exact (State.ch_setCh_ne State.reset 3 4 sampleChannel (by decide)).symm
  · intro h
    have h2 := congrArg Channel.counter h
    rw [betweenCommands, State.ch_setCh_self] at h2
    change ((State.resetWith Config.params).ch 3).counter = _ at h2
    rw [State.resetWith_ch] at h2
    exact absurd h2 (by decide)

/-- The machine reset with mode 1 and with mode 8 everywhere: they differ only at silent channels. -/
theorem witness_silentChannelsUnheard :
    (State.resetWith { Config.params with resetMode := 1 }).Ready ∧
    (State.resetWith { Config.params with resetMode := 8 }).Ready ∧
    (State.resetWith { Config.params with resetMode := 1 }).AgreeWhereHeard
      (State.resetWith { Config.params with resetMode := 8 }) ∧
    (State.resetWith { Config.params with resetMode := 1 }).outcomes =
      (State.resetWith { Config.params with resetMode := 8 }).outcomes := by
  refine ⟨⟨rfl, rfl⟩, ⟨rfl, rfl⟩, ⟨rfl, fun i => .inr ?_⟩, rfl⟩
  rw [State.resetWith_ch, State.resetWith_ch]
  exact ⟨rfl, rfl⟩

theorem witness_samplesIndependentOfResetMode : Config.params.resetVolume = 0 := rfl

/-- Two states that differ in bit 5 of channel 3's `reg5` and in nothing else. -/
theorem witness_extensionBitNeverObserved :
    betweenCommands.Ready ∧ (betweenCommands.setCh 3 { sampleChannel with reg5 := 0x0C }).Ready ∧
    (∀ i, (betweenCommands.ch i).SameButExtension
      ((betweenCommands.setCh 3 { sampleChannel with reg5 := 0x0C }).ch i)) := by
  refine ⟨⟨rfl, rfl⟩, ⟨rfl, rfl⟩, fun i => ?_⟩
  by_cases h : i = 3
  · subst h
    rw [betweenCommands, State.ch_setCh_self, State.ch_setCh_self]
    exact ⟨⟨rfl, rfl, rfl⟩, rfl, rfl, by decide⟩
  · rw [State.ch_setCh_ne betweenCommands 3 i _ h]
    exact ⟨⟨rfl, rfl, rfl⟩, rfl, rfl, rfl⟩

end Sys2Proof.Tests
end

section
/-! What reset establishes, for every choice of the parameters (R165), and O16 for this machine's parameters. -/

namespace Sys2Proof.Machine

@[simp] theorem Channel.resetWith_counter (p : Params) (i : ChannelIndex) : (Channel.resetWith p i).counter = 0 := rfl

@[simp] theorem State.resetWith_div6Variant (p : Params) : (State.resetWith p).div6Variant = p.div6Variant := rfl

@[simp] theorem State.resetWith_outcomes (p : Params) : (State.resetWith p).outcomes = [] := rfl

theorem State.resetWith_ready (p : Params) : (State.resetWith p).Ready := ⟨rfl, rfl⟩

/-- Every counter starts at 0, so the bound of R24 holds whatever the divide fields are reset to. -/
theorem State.resetWith_countersInRange (p : Params) : (State.resetWith p).CountersInRange := by
  intro i
  have counter_zero : ((State.resetWith p).ch i).counter.toNat = 0 := by simp
  omega

/-- Settles O16: the three invariants hold after reset for all parameters, hence for `Config.params`, whose variant is
AS_WRITTEN. -/
theorem resetMeetsInvariants : Obligations.ResetMeetsInvariants :=
  ⟨State.resetWith_ready Config.params, State.resetWith_outcomes Config.params,
    State.resetWith_countersInRange Config.params, State.resetWith_div6Variant,
    State.resetWith_div6Variant Config.params⟩

end Sys2Proof.Machine
end

section
/-! What one instruction does to one channel, said once: `ChannelEffect` lists the four updates there are, and every
instruction applies one of them, chosen without looking at any channel's record (R29, R135). O25, O57 and O53
follow from it. -/

namespace Sys2Proof.Machine

open Sys2Proof.Laws (opOf)

/-! ### The instructions by kind -/

theorem opOf_decodeMode : ∀ m : BitVec 4, opOf (decodeMode m) = none := by decide

/-- No mode is a command: `opOf` gives a command its op field. -/
theorem decodeMode_ne_of_opOf {i : Instr} {op : BitVec 2} (hi : opOf i = some op) (m : BitVec 4) : decodeMode m ≠ i := by
  rintro rfl
  exact absurd ((opOf_decodeMode m).symm.trans hi) (by simp)

/-- An instruction is a mode or one of the four commands (R55). -/
theorem Instr.mode_or_command (i : Instr) :
    (∃ m, i = decodeMode m) ∨ i = .nextSample ∨ (∃ ch div mode vol, i = .configure ch div mode vol) ∨
      (∃ ch, i = .readConfig ch) ∨ (∃ ch, i = .readAudible ch) := by
  cases i
  case nextSample => exact .inr (.inl rfl)
  case configure ch div mode vol => exact .inr (.inr (.inl ⟨ch, div, mode, vol, rfl⟩))
  case readConfig ch => exact .inr (.inr (.inr (.inl ⟨ch, rfl⟩)))
  case readAudible ch => exact .inr (.inr (.inr (.inr ⟨ch, rfl⟩)))
  all_goals exact .inl (by decide)

/-- Every mode is the dispatch on its own mode field, applied to the pending firing event (R99). -/
theorem execState_decodeMode (m : BitVec 4) (s : State) :
    execState (decodeMode m) s = s.applyFiring (fire s.div6Variant m) := by
  obtain ⟨⟨n, hn⟩⟩ := m
  interval_cases n <;> rfl

@[simp] theorem execState_nextSample (s : State) :
    execState .nextSample s = s.tickAll.respond (sampleResponse s.tickAll.mixed) := rfl

/-! ### Applying a firing event -/

theorem State.applyFiring_ch (s : State) (f : Reg4 → Reg5 → Reg4 × Reg5) (c : ChannelIndex) :
    (s.applyFiring f).ch c =
      if s.firing = some c then (s.ch c).withRegs (f (s.ch c).reg4 (s.ch c).reg5) else s.ch c := by
  cases hf : s.firing with
  | none => simp [State.applyFiring_none hf]
  | some d =>
    rw [State.applyFiring_some hf, State.ch_with_firing, State.ch_setCh]
    by_cases h : c = d
    · simp [h]
    · simp [h, Ne.symm h]

theorem State.applyFiring_div6Variant (s : State) (f : Reg4 → Reg5 → Reg4 × Reg5) :
    (s.applyFiring f).div6Variant = s.div6Variant := by
  cases hf : s.firing with
  | none => rw [State.applyFiring_none hf]
  | some d => rw [State.applyFiring_some hf]; rfl

/-! ### The effect on one channel -/

/-- `ChannelEffect v i g`: under the variant `v`, the instruction `i` may update a channel's record by `g`. -/
inductive ChannelEffect (v : Div6Variant) : Instr → (Channel → Channel) → Prop
  /-- The record is kept: by the reads, by a refused command, and by any instruction but NEXT_SAMPLE at a channel that is
  not its own. -/
  | kept {i : Instr} (hi : i ≠ .nextSample) : ChannelEffect v i id
  /-- One tick, at every channel (R125). -/
  | ticked : ChannelEffect v .nextSample (Channel.tick v)
  /-- The configuration fields are written (R70). -/
  | configured (ch div mode vol : Nat) (d : BitVec 5) (m : BitVec 4) (w : BitVec 16) :
      ChannelEffect v (.configure ch div mode vol) (fun x => x.configured d m w)
  /-- One firing event under the mode's rule (R80). -/
  | fired (m : BitVec 4) {i : Instr} (hi : i = decodeMode m) :
      ChannelEffect v i (fun x => x.withRegs (fire v m x.reg4 x.reg5))

/-- What an instruction does to channel `c` is one of the effects above, and the instruction, the parameter and the pending
firing event alone say which: no channel's record is looked at. -/
theorem exists_channelEffect (i : Instr) (v : Div6Variant) (firing : Option ChannelIndex) (c : ChannelIndex) :
    ∃ g, ChannelEffect v i g ∧
      ∀ s : State, s.div6Variant = v → s.firing = firing → (execState i s).ch c = g (s.ch c) := by
  rcases Instr.mode_or_command i with
    ⟨m, rfl⟩ | rfl | ⟨ch, div, mode, vol, rfl⟩ | ⟨ch, rfl⟩ | ⟨ch, rfl⟩
  · by_cases hc : firing = some c
    · refine ⟨_, .fired m rfl, ?_⟩
      rintro s rfl rfl
      rw [execState_decodeMode, State.applyFiring_ch, if_pos hc]
    · refine ⟨id, .kept (decodeMode_ne_of_opOf rfl m), ?_⟩
      rintro s rfl rfl
      rw [execState_decodeMode, State.applyFiring_ch, if_neg hc, id]
  · refine ⟨_, .ticked, ?_⟩
    rintro s rfl -
    exact State.tickAll_ch s c
  · rcases execConfigure_cases ch div mode vol with ⟨o, -, h⟩ | ⟨r, -, h⟩
    · by_cases hc : c = o.ch
      · subst hc
        exact ⟨_, .configured ch div mode vol o.divide o.mode o.volume, fun s _ _ => by
          rw [execState_of_next (h s), State.complete_eq, State.report_ch, State.ch_setCh_self]⟩
      · exact ⟨id, .kept (by simp), fun s _ _ => by
          rw [execState_of_next (h s), State.complete_eq, State.report_ch, State.ch_setCh_ne _ _ _ _ hc, id]⟩
    · exact ⟨id, .kept (by simp), fun s _ _ => by rw [execState_of_next (h s)]; rfl⟩
  · refine ⟨id, .kept (by simp), fun s _ _ => ?_⟩
    rcases execReadConfig_cases ch with ⟨o, -, h⟩ | ⟨r, -, h⟩ <;> rw [execState_of_next (h s)] <;> rfl
  · refine ⟨id, .kept (by simp), fun s _ _ => ?_⟩
    rcases execReadAudible_cases ch with ⟨o, -, h⟩ | ⟨r, -, h⟩ <;> rw [execState_of_next (h s)] <;> rfl

/-! ### What no meaning writes -/

theorem execState_input (i : Instr) (s : State) : (execState i s).input = s.input :=
  show _ from congrArg (fun t => t.input) (execState_with_input i s s.input)

theorem execState_div6Variant (i : Instr) (s : State) : (execState i s).div6Variant = s.div6Variant := by
  rcases Instr.mode_or_command i with
    ⟨m, rfl⟩ | rfl | ⟨ch, div, mode, vol, rfl⟩ | ⟨ch, rfl⟩ | ⟨ch, rfl⟩
  · rw [execState_decodeMode, State.applyFiring_div6Variant]
  · rfl
  · rcases execConfigure_cases ch div mode vol with ⟨o, -, h⟩ | ⟨r, -, h⟩ <;> rw [execState_of_next (h s)] <;> rfl
  · rcases execReadConfig_cases ch with ⟨o, -, h⟩ | ⟨r, -, h⟩ <;> rw [execState_of_next (h s)] <;> rfl
  · rcases execReadAudible_cases ch with ⟨o, -, h⟩ | ⟨r, -, h⟩ <;> rw [execState_of_next (h s)] <;> rfl

/-! ### Each writer's own fields (R29) -/

section Writers

variable {v : Div6Variant} {i : Instr} {g : Channel → Channel}

theorem ChannelEffect.sameConfig (hg : ChannelEffect v i g) (hi : ∀ ch div mode vol, i ≠ .configure ch div mode vol)
    (x : Channel) : (g x).SameConfig x := by
  cases hg with
  | kept _ => exact ⟨rfl, rfl, rfl⟩
  | ticked => exact ⟨Channel.tick_divide v x, Channel.tick_mode v x, Channel.tick_volume v x⟩
  | configured ch div mode vol => exact absurd rfl (hi ch div mode vol)
  | fired _ _ => exact ⟨rfl, rfl, rfl⟩

theorem ChannelEffect.counter_eq (hg : ChannelEffect v i g) (hi : i ≠ .nextSample) (x : Channel) :
    (g x).counter = x.counter := by
  cases hg with
  | ticked => exact absurd rfl hi
  | kept _ | configured | fired _ _ => rfl

theorem ChannelEffect.sameInternal_of_configure {ch div mode vol : Nat}
    (hg : ChannelEffect v (.configure ch div mode vol) g) (x : Channel) : (g x).SameInternal x := by
  cases hg with
  | kept _ | configured => exact ⟨rfl, rfl, rfl⟩
  | fired m hm => exact absurd hm.symm (decodeMode_ne_of_opOf rfl m)

theorem ChannelEffect.eq_of_read (hg : ChannelEffect v i g) {ch : Nat} (hi : i = .readConfig ch ∨ i = .readAudible ch)
    (x : Channel) : g x = x := by
  cases hg with
  | kept _ => rfl
  | ticked => simp at hi
  | configured => simp at hi
  | fired m hm =>
    subst hm
    exact absurd hi (not_or.mpr ⟨decodeMode_ne_of_opOf rfl m, decodeMode_ne_of_opOf rfl m⟩)

end Writers

/-- Settles O25: each clause is a property of the one effect that the instruction has on the channel. -/
theorem writersKeepToTheirFields : Obligations.WritersKeepToTheirFields := by
  intro i s
  refine ⟨execState i s, exec_eq_execState i s, execState_div6Variant i s, execState_input i s, fun c => ?_⟩
  obtain ⟨g, effect, apply_eq⟩ := exists_channelEffect i s.div6Variant s.firing c
  rw [apply_eq s rfl rfl]
  refine ⟨fun hi => effect.sameConfig hi _, fun hi => effect.counter_eq hi _, ?_,
    fun ⟨_, hi⟩ => effect.eq_of_read hi _⟩
  rintro ⟨ch, div, mode, vol, rfl⟩
  exact effect.sameInternal_of_configure _

/-! ### Independence of the channels (R30, R135) -/

/-- Two states between commands that agree in the parameter and in channel `c`, whatever their other channels hold. -/
structure State.AgreeAt (c : ChannelIndex) (s t : State) : Prop where
  firing_left : s.firing = none
  firing_right : t.firing = none
  div6Variant_eq : s.div6Variant = t.div6Variant
  ch_eq : s.ch c = t.ch c

theorem execState_agreeAt {c : ChannelIndex} {s t : State} (h : s.AgreeAt c t) (i : Instr) :
    (execState i s).AgreeAt c (execState i t) where
  firing_left := execState_firing i s h.firing_left
  firing_right := execState_firing i t h.firing_right
  div6Variant_eq := by rw [execState_div6Variant, execState_div6Variant, h.div6Variant_eq]
  ch_eq := by
    obtain ⟨g, -, apply_eq⟩ := exists_channelEffect i t.div6Variant none c
    rw [apply_eq s h.div6Variant_eq h.firing_left, apply_eq t rfl h.firing_right, h.ch_eq]

theorem execRequest_agreeAt {c : ChannelIndex} {s t : State} (h : s.AgreeAt c t) (r : Request) :
    (execRequest s r).AgreeAt c (execRequest t r) := by
  unfold execRequest
  cases r.decode with
  | ok i => exact execState_agreeAt h i
  | error e => exact ⟨h.firing_left, h.firing_right, h.div6Variant_eq, h.ch_eq⟩

theorem foldl_execRequest_agreeAt {c : ChannelIndex} (rs : List Request) {s t : State} (h : s.AgreeAt c t) :
    (rs.foldl execRequest s).AgreeAt c (rs.foldl execRequest t) := by
  induction rs generalizing s t with
  | nil => exact h
  | cons r rest ih => exact ih (execRequest_agreeAt h r)

/-- Settles O57: agreement at the channel is kept by every request of the run. -/
theorem channelsIndependent : Obligations.ChannelsIndependent := by
  intro s t c rs hs ht variant_eq ch_eq
  exact ⟨_, _, runRequests_eq s rs hs, runRequests_eq t rs ht,
    (foldl_execRequest_agreeAt rs ⟨hs.1, ht.1, variant_eq, ch_eq⟩).ch_eq⟩

/-! ### The counter range (R24, R122) -/

/-- The divider wraps before it passes `2·divide + 1`, whatever the counter held. -/
theorem Channel.advanceDivider_counter_le (x : Channel) :
    x.advanceDivider.counter.toNat ≤ 2 * x.divide.toNat + 1 := by
  unfold Channel.advanceDivider
  dsimp only
  split
  · simp
  · have := Nat.mod_le (x.counter.toNat + 1) (2 ^ 6)
    rw [BitVec.toNat_ofNat]
    omega

theorem Channel.tick_counter_le (v : Div6Variant) (x : Channel) :
    (x.tick v).counter.toNat ≤ 2 * (x.tick v).divide.toNat + 1 := by
  rw [Channel.tick_counter, Channel.tick_divide]
  exact x.advanceDivider_counter_le

theorem ChannelEffect.counter_le {v : Div6Variant} {i : Instr} {g : Channel → Channel} (hg : ChannelEffect v i g)
    (hi : ∀ ch div mode vol, i ≠ .configure ch div mode vol) {x : Channel}
    (hx : x.counter.toNat ≤ 2 * x.divide.toNat + 1) : (g x).counter.toNat ≤ 2 * (g x).divide.toNat + 1 := by
  by_cases hn : i = .nextSample
  · subst hn
    cases hg with
    | kept hne => exact absurd rfl hne
    | ticked => exact x.tick_counter_le v
    | fired m hm => exact absurd hm.symm (decodeMode_ne_of_opOf rfl m)
  · obtain ⟨divide_eq, -, -⟩ := hg.sameConfig hi x
    rwa [hg.counter_eq hn, divide_eq]

/-- Settles O53: a tick puts every counter in range, and the other commands but CONFIGURE change neither the counter nor
the divisor. -/
theorem counterRangeKept : Obligations.CounterRangeKept := by
  refine ⟨fun s => ⟨_, exec_eq_execState .nextSample s, fun c => ?_⟩,
    fun i s hi hs => ⟨_, exec_eq_execState i s, fun c => ?_⟩⟩
  · rw [execState_nextSample, State.respond_eq, State.report_ch, State.tickAll_ch]
    exact (s.ch c).tick_counter_le s.div6Variant
  · obtain ⟨g, effect, apply_eq⟩ := exists_channelEffect i s.div6Variant s.firing c
    rw [apply_eq s rfl rfl]
    exact effect.counter_le hi (hs c)

end Sys2Proof.Machine
end

section
/-! The mixer in an accumulator of a fixed width: truncation to 16 bits commutes with every wrapping addition, so the width
does not matter from 16 bits up (R33, R128, decision D6). -/

namespace Sys2Proof.Machine

/-- Truncating once at the end is adding in 16 bits all along. -/
theorem setWidth_foldl_add {k : Nat} (hk : 16 ≤ k) (vs : List (BitVec 16)) (acc : BitVec k) :
    ((vs.map (BitVec.setWidth k)).foldl (· + ·) acc).setWidth 16 =
      acc.setWidth 16 + sampleOf (vs.map BitVec.toNat).sum := by
  unfold sampleOf
  induction vs generalizing acc with
  | nil => simp
  | cons x xs ih =>
    rw [List.map_cons, List.foldl_cons, ih, BitVec.setWidth_add _ _ hk, BitVec.setWidth_setWidth_of_le _ hk,
      List.map_cons, List.sum_cons, BitVec.ofNat_add, BitVec.ofNat_toNat, BitVec.add_assoc]

theorem setWidth_foldl_add_zero {k : Nat} (hk : 16 ≤ k) (vs : List (BitVec 16)) :
    ((vs.map (BitVec.setWidth k)).foldl (· + ·) 0).setWidth 16 = sampleOf (vs.map BitVec.toNat).sum := by
  simp [setWidth_foldl_add hk]

/-- The volumes of the channels whose audible bit is set, in the order of the channels. -/
def State.audibleVolumes (s : State) : List (BitVec 16) :=
  ((List.finRange 32).filter fun i => (s.ch i).reg4.getLsbD 3).map fun i => (s.ch i).volume

/-- The mixer's exact sum is the sum of the audible volumes (R127). -/
theorem State.mixed_eq_sum_audibleVolumes (s : State) : s.mixed = (s.audibleVolumes.map BitVec.toNat).sum := by
  rw [State.mixed_eq_sum, Fin.sum_univ_def, List.sum_map_ite]
  simp [State.audibleVolumes, Channel.audible, Function.comp_def]

/-- Adding the volumes of the audible channels, one channel after another, in an accumulator of at least 16 bits gives the
sample of the exact sum (R33). -/
theorem State.setWidth_foldl_audible {k : Nat} (hk : 16 ≤ k) (s : State) :
    ((List.finRange 32).foldl
        (fun acc i => if (s.ch i).reg4.getLsbD 3 then acc + (s.ch i).volume.setWidth k else acc) 0).setWidth 16 =
      sampleOf s.mixed := by
  rw [State.mixed_eq_sum_audibleVolumes, ← setWidth_foldl_add_zero hk, State.audibleVolumes, List.foldl_map,
    List.foldl_map, List.foldl_filter]

/-- The sample, read as a signed number, is `wrap16` of the exact sum (R128). -/
theorem sampleOf_toInt (n : Nat) : (sampleOf n).toInt = wrap16 n := by
  rw [sampleOf, BitVec.toInt_eq_toNat_cond, BitVec.toNat_ofNat, wrap16]
  split <;> split <;> omega

/-- Settles O52: every accumulator gives the sample of the exact sum, the 16-bit one included. -/
theorem accumulatorWidthImmaterial : Obligations.AccumulatorWidthImmaterial := by
  refine ⟨fun k vs hk => setWidth_foldl_add_zero hk vs, fun k s hk => ⟨_, exec_eq_execState .nextSample s, ?_⟩,
    fun vs => ?_, sampleOf_toInt, by decide⟩
  · exact congrArg (fun x : Sample => s.outcomes ++ [CommandOutcome.response (x.signExtend 32)])
      (s.tickAll.setWidth_foldl_audible hk).symm
  · have at_16 := setWidth_foldl_add_zero (le_refl 16) vs
    rwa [BitVec.setWidth_eq, funext (fun x : BitVec 16 => BitVec.setWidth_eq x), List.map_id'] at at_16

end Sys2Proof.Machine
end

section
/-! The steps that take no request (R35, R55), and the table of R38. -/

namespace Sys2Proof.Machine

theorem step_of_firing {s : State} {c : ChannelIndex} (hf : s.firing = some c) :
    step s = exec (decodeMode (s.ch c).mode) s := by
  rcases step_cases s with ⟨d, hd, h⟩ | ⟨hn, -⟩ | ⟨_, _, _, hn, -⟩ | ⟨_, _, _, hn, -⟩
  · obtain rfl : c = d := Option.some.inj (hf.symm.trans hd)
    exact h
  all_goals exact absurd (hf.symm.trans hn) (by simp)

theorem step_of_ready {s : State} (hs : s.Ready) : step s = .next s := by
  obtain ⟨hf, hi⟩ := hs
  rcases step_cases s with ⟨_, hd, -⟩ | ⟨-, -, h⟩ | ⟨_, _, _, -, hc, -⟩ | ⟨_, _, _, -, hc, -⟩
  · exact absurd (hf.symm.trans hd) (by simp)
  · exact h
  all_goals exact absurd (hi.symm.trans hc) (by simp)

/-- Settles O8: the two cases of `step_cases` in which no request is taken. -/
theorem stepWithoutRequest : Obligations.StepWithoutRequest := by
  refine ⟨fun s c i hf hd => ?_, fun s hf hi => step_of_ready ⟨hf, hi⟩⟩
  obtain rfl : decodeMode (s.ch c).mode = i := Except.ok.inj hd
  exact step_of_firing hf

/-- RESET_DIVIDE loses nothing: every channel index fits the divisor's 5 bits (R38). -/
theorem Config.resetDivide_toNat (i : ChannelIndex) : (Config.resetDivide i).toNat = i.val := by
  rw [Config.resetDivide, BitVec.toNat_ofNat, Nat.mod_eq_of_lt i.isLt]

theorem State.reset_ch (i : ChannelIndex) : State.reset.ch i = Channel.resetWith Config.params i :=
  State.resetWith_ch Config.params i

/-- Settles O15: `resetWith` for all parameters, then this machine's parameters; RESET_MODE is one value for all
channels. -/
theorem resetValues : Obligations.ResetValues := by
  refine ⟨State.resetWith_ch, fun i => ?_, fun i j => ?_⟩
  · rw [State.reset_ch]
    exact ⟨Config.resetDivide_toNat i, rfl, rfl, rfl, rfl⟩
  · rw [State.reset_ch, State.reset_ch]
    rfl

end Sys2Proof.Machine
end

section
/-! The bytes of a command word (R44, R45), the CONFIGURE word decoded field by field (R60), and what decoding promises:
operands that fit (R67, R142). -/

namespace Sys2Proof

/-! ### Bytes -/

/-- The first of four bytes is the least significant one (R44). -/
theorem wordOfBytes_toNat (b0 b1 b2 b3 : Byte) :
    (wordOfBytes b0 b1 b2 b3).toNat = b0.toNat + b1.toNat * 2 ^ 8 + b2.toNat * 2 ^ 16 + b3.toNat * 2 ^ 24 := by
  unfold wordOfBytes
  simp only [BitVec.toNat_append]
  rw [← Nat.shiftLeft_add_eq_or_of_lt b2.isLt, ← Nat.shiftLeft_add_eq_or_of_lt b1.isLt,
    ← Nat.shiftLeft_add_eq_or_of_lt b0.isLt]
  simp only [Nat.shiftLeft_eq]
  omega

theorem wordOfBytes_of_word (w : Word) :
    wordOfBytes (w.extractLsb' 0 8) (w.extractLsb' 8 8) (w.extractLsb' 16 8) (w.extractLsb' 24 8) = w := by
  apply BitVec.eq_of_toNat_eq
  have := w.isLt
  simp only [wordOfBytes_toNat, extractLsb'_toNat_eq]
  omega

/-- Byte `k` of a word holds bits [8k+7:8k] (R44). -/
theorem wordBytes_getElem? (w : Word) {k : Nat} (hk : k < 4) :
    (wordBytes w)[k]? = some (w.extractLsb' (8 * k) 8) := by
  interval_cases k <;> rfl

theorem decodeBytes_of_four (b0 b1 b2 b3 : Byte) (rest : List Byte) :
    decodeBytes (b0 :: b1 :: b2 :: b3 :: rest) = some (decodeCommand (wordOfBytes b0 b1 b2 b3), rest) := rfl

/-- No partial word is a command (R45). -/
theorem decodeBytes_of_short {bs : List Byte} (h : bs.length < 4) : decodeBytes bs = none := by
  match bs with
  | [] | [_] | [_, _] | [_, _, _] => rfl
  | _ :: _ :: _ :: _ :: _ => simp only [List.length_cons] at h; omega

/-- Settles O5: the word of its own four bytes is the word itself. -/
theorem commandBytesLittleEndian : Obligations.CommandBytesLittleEndian := by
  refine ⟨fun w rest => ?_, fun w k hk => ?_, fun _ => decodeBytes_of_short⟩
  · simp only [wordBytes, List.cons_append, List.nil_append, decodeBytes_of_four, wordOfBytes_of_word]
  · rw [wordBytes_getElem? w hk, Option.map_some, extractLsb'_toNat_eq, pow_mul]
    rfl

/-! ### The fields of a CONFIGURE word -/

section Fields

variable (ch div : BitVec 5) (mode : BitVec 4) (vol : BitVec 16)

theorem chField_configureWord : chField (configureWord ch div mode vol) = ch := by
  apply BitVec.eq_of_toNat_eq
  rw [chField_toNat, configureWord_toNat]
  omega

theorem divField_configureWord : divField (configureWord ch div mode vol) = div := by
  apply BitVec.eq_of_toNat_eq
  rw [divField_toNat, configureWord_toNat]
  omega

theorem modeField_configureWord : modeField (configureWord ch div mode vol) = mode := by
  apply BitVec.eq_of_toNat_eq
  rw [modeField_toNat, configureWord_toNat]
  omega

theorem volField_configureWord : volField (configureWord ch div mode vol) = vol := by
  apply BitVec.eq_of_toNat_eq
  rw [volField_toNat, configureWord_toNat]
  omega

theorem decodeCommand_configureWord :
    decodeCommand (configureWord ch div mode vol) =
      .ok (.configure ch.toNat div.toNat mode.toNat vol.toNat) := by
  simp [decodeCommand, opField_configureWord, chField_configureWord, divField_configureWord, modeField_configureWord,
    volField_configureWord]

end Fields

/-! ### What decodes is well formed -/

theorem Instr.wellFormed_configure_iff {ch div mode vol : Nat} :
    (Instr.configure ch div mode vol).WellFormed ↔ ch < 32 ∧ div < 32 ∧ mode < 16 ∧ vol < 65536 := by
  simp only [Instr.WellFormed, Instr.check]
  split_ifs <;> simp <;> omega

theorem Instr.wellFormed_readConfig_iff {ch : Nat} : (Instr.readConfig ch).WellFormed ↔ ch < 32 := by
  simp [Instr.WellFormed, Instr.check]

theorem Instr.wellFormed_readAudible_iff {ch : Nat} : (Instr.readAudible ch).WellFormed ↔ ch < 32 := by
  simp [Instr.WellFormed, Instr.check]

/-- A word that decodes is one of the four commands, each operand the field it stands in (R59 to R65). -/
theorem decodeCommand_cases {w : Word} {i : Instr} (h : decodeCommand w = .ok i) :
    i = .nextSample ∨
    i = .configure (chField w).toNat (divField w).toNat (modeField w).toNat (volField w).toNat ∨
    i = .readConfig (chField w).toNat ∨ i = .readAudible (chField w).toNat := by
  unfold decodeCommand at h
  split_ifs at h <;> cases h <;> simp

theorem decodeCommand_wellFormed {w : Word} {i : Instr} (h : decodeCommand w = .ok i) : i.WellFormed := by
  rcases decodeCommand_cases h with rfl | rfl | rfl | rfl
  · rfl
  · exact Instr.wellFormed_configure_iff.mpr
      ⟨(chField w).isLt, (divField w).isLt, (modeField w).isLt, (volField w).isLt⟩
  · exact Instr.wellFormed_readConfig_iff.mpr (chField w).isLt
  · exact Instr.wellFormed_readAudible_iff.mpr (chField w).isLt

theorem acceptTyped_of_wellFormed {i : Instr} (h : i.WellFormed) : acceptTyped i = .ok i := by
  rw [acceptTyped, h]

theorem acceptTyped_wellFormed {i j : Instr} (h : acceptTyped i = .ok j) : j.WellFormed := by
  unfold acceptTyped at h
  split at h
  · next fits => cases h; exact fits
  · cases h

/-- A request that is not refused asks for an instruction whose operands fit (R67, R142). -/
theorem Request.decode_wellFormed {r : Request} {i : Instr} (h : r.decode = .ok i) : i.WellFormed := by
  cases r with
  | word w => exact decodeCommand_wellFormed h
  | nextSample | configure | readConfig | readAudible =>
    unfold Request.decode at h
    exact acceptTyped_wellFormed h

end Sys2Proof
end

section
/-! The commands on a state (R46 to R54, R66): what each ChannelBank command answers when its operands fit, what issuing a
command twice does, and the tick that follows a CONFIGURE. -/

namespace Sys2Proof.Machine

/-! ### The step that runs a request -/

/-- The oldest request, where it is not refused, is the one the step executes (R47). -/
theorem step_of_request {s : State} {r : Request} {rest : List Request} {i : Instr} (hf : s.firing = none)
    (hi : s.input = r :: rest) (hd : r.decode = .ok i) : step s = exec i { s with input := rest } := by
  have taken : s = { s with input := r :: rest } := by rw [← hi]
  rw [taken, step_request s r rest hf, ← execRequest_with_input, execRequest, hd]
  exact (exec_eq_execState i _).symm

/-- Settles O7: decoding promises operands that fit, and the step is the one of `step_request`. -/
theorem stepRunsDecodedRequest : Obligations.StepRunsDecodedRequest :=
  fun _ _ _ _ hf hi hd => ⟨Request.decode_wellFormed hd, step_of_request hf hi hd⟩

/-! ### The ChannelBank commands with operands that fit -/

/-- CONFIGURE writes the three configuration fields of the channel it names (R70). -/
theorem exec_configure_of_fits {ch div mode vol : Nat} (s : State) (hch : ch < 32) (hdiv : div < 32) (hmode : mode < 16)
    (hvol : vol < 65536) :
    exec (.configure ch div mode vol) s =
      .next (s.setCh ⟨ch, hch⟩ ((s.ch ⟨ch, hch⟩).configured (BitVec.ofNat 5 div) (BitVec.ofNat 4 mode)
        (BitVec.ofNat 16 vol))).complete := by
  simp only [exec, execConfigure, configureOperands_eq, dif_pos hch, if_pos hdiv, if_pos hmode, if_pos hvol]

/-- CONFIGURE with operands given as field values, which always fit. -/
theorem exec_configure_fields (s : State) (c : ChannelIndex) (d : BitVec 5) (m : BitVec 4) (v : BitVec 16) :
    exec (.configure c.val d.toNat m.toNat v.toNat) s = .next (s.setCh c ((s.ch c).configured d m v)).complete := by
  rw [exec_configure_of_fits s c.isLt d.isLt m.isLt v.isLt]
  simp

/-- READ_CONFIG responds the configuration of the channel it names (R71). -/
theorem exec_readConfig (s : State) (c : ChannelIndex) :
    exec (.readConfig c.val) s = .next (s.respond (configResponse c (s.ch c))) := by
  simp only [exec, execReadConfig, channelOperand_of_lt c.isLt]

/-- READ_AUDIBLE responds the audible bit of the channel it names (R72). -/
theorem exec_readAudible (s : State) (c : ChannelIndex) :
    exec (.readAudible c.val) s = .next (s.respond (audibleResponse (s.ch c))) := by
  simp only [exec, execReadAudible, channelOperand_of_lt c.isLt]

theorem execState_configure_ch_self {ch div mode vol : Nat} (s : State) (hch : ch < 32) (hdiv : div < 32)
    (hmode : mode < 16) (hvol : vol < 65536) :
    (execState (.configure ch div mode vol) s).ch ⟨ch, hch⟩ =
      (s.ch ⟨ch, hch⟩).configured (BitVec.ofNat 5 div) (BitVec.ofNat 4 mode) (BitVec.ofNat 16 vol) := by
  rw [execState_of_next (exec_configure_of_fits s hch hdiv hmode hvol), State.complete_eq, State.report_ch,
    State.ch_setCh_self]

/-- CONFIGURE leaves the counter and the registers of every channel, fitting operands or not (R52, R73). -/
theorem execState_configure_sameInternal (ch div mode vol : Nat) (s : State) (c : ChannelIndex) :
    ((execState (.configure ch div mode vol) s).ch c).SameInternal (s.ch c) := by
  obtain ⟨g, effect, apply_eq⟩ := exists_channelEffect (.configure ch div mode vol) s.div6Variant s.firing c
  rw [apply_eq s rfl rfl]
  exact effect.sameInternal_of_configure _

/-! ### What a read answers after a CONFIGURE (R54) -/

/-- The response of READ_CONFIG reads as the CONFIGURE that writes what the channel holds (R66). -/
theorem decodeCommand_configResponse (i : ChannelIndex) (c : Channel) :
    decodeCommand (configResponse i c) =
      .ok (.configure i.val c.divide.toNat c.mode.toNat c.volume.toNat) :=
  decodeCommand_configureWord (BitVec.ofFin i) c.divide c.mode c.volume

/-- The response of READ_AUDIBLE is bit 3 of `reg4` as a number (R66, R72). -/
theorem audibleResponse_eq (c : Channel) : audibleResponse c = BitVec.ofNat 32 (c.reg4.getLsbD 3).toNat := by
  unfold audibleResponse Channel.audible
  cases c.reg4.getLsbD 3 <;> rfl

/-- Settles O22: the configuration the reads find is the one written, the registers are the ones that stood there. -/
theorem readAfterConfigure : Obligations.ReadAfterConfigure := by
  intro ch div mode vol s hch hdiv hmode hvol
  have reg4_kept (i : ChannelIndex) : ((execState (.configure ch div mode vol) s).ch i).reg4 = (s.ch i).reg4 := by
    obtain ⟨-, reg4_eq, -⟩ := execState_configure_sameInternal ch div mode vol s i
    exact reg4_eq
  refine ⟨_, _, _, exec_eq_execState _ s, exec_readConfig _ ⟨ch, hch⟩, rfl, ?_, fun i => ?_,
    fun i => ⟨_, exec_readAudible _ i, ?_⟩⟩
  · rw [decodeCommand_configResponse, execState_configure_ch_self s hch hdiv hmode hvol]
    simp [Nat.mod_eq_of_lt hdiv, Nat.mod_eq_of_lt hmode, Nat.mod_eq_of_lt hvol]
  · rw [Channel.audible, Channel.audible, reg4_kept]
  · rw [State.respond_eq, State.report_outcomes, audibleResponse_eq, reg4_kept]

/-! ### Issuing a command twice (R49) -/

/-- The divider's update on numbers: below the bound the counter goes up without wrapping, since `2·divide + 2` is at most
64 (R24, R120). -/
theorem Channel.advanceDivider_counter_toNat (x : Channel) :
    x.advanceDivider.counter.toNat =
      if 2 * x.divide.toNat + 2 ≤ x.counter.toNat + 1 then 0 else x.counter.toNat + 1 := by
  have := x.divide.isLt
  rw [Channel.advanceDivider]
  dsimp only
  split
  · rfl
  · rw [BitVec.toNat_ofNat, Nat.mod_eq_of_lt (by omega)]

/-- A tick changes the counter of every channel: it goes up by one, or from a counter other than 0 back to 0. -/
theorem Channel.tick_counter_ne (v : Div6Variant) (x : Channel) : (x.tick v).counter ≠ x.counter := by
  intro h
  have counter_eq := congrArg BitVec.toNat h
  rw [Channel.tick_counter, Channel.advanceDivider_counter_toNat] at counter_eq
  split at counter_eq <;> omega

/-- NEXT_SAMPLE changes the channels of every state. -/
theorem execState_nextSample_channels_ne (s : State) : (execState .nextSample s).channels ≠ s.channels := by
  intro h
  have ch_eq : s.tickAll.ch 0 = s.ch 0 := congrArg (fun chs : Vector Channel 32 => chs[(0 : ChannelIndex)]) h
  rw [State.tickAll_ch] at ch_eq
  exact (s.ch 0).tick_counter_ne s.div6Variant (congrArg Channel.counter ch_eq)

/-- Writing the same configuration again changes no channel (R49). -/
theorem execState_configure_twice (ch div mode vol : Nat) (s : State) :
    (execState (.configure ch div mode vol) (execState (.configure ch div mode vol) s)).channels =
      (execState (.configure ch div mode vol) s).channels := by
  rcases execConfigure_cases ch div mode vol with ⟨o, -, h⟩ | ⟨r, -, h⟩
  · apply State.channels_ext
    intro i
    simp only [execState_of_next (h _), State.complete_eq, State.report_ch, State.ch_setCh]
    split <;> rfl
  · rw [execState_of_next (h _)]
    rfl

/-- A read does nothing but report an outcome, which the channels alone determine (R49, R71, R72). -/
theorem exec_read_eq_report {i : Instr} (hi : ∃ ch, i = .readConfig ch ∨ i = .readAudible ch) :
    ∃ answer : Vector Channel 32 → CommandOutcome, ∀ s : State, exec i s = .next (s.report (answer s.channels)) := by
  obtain ⟨ch, rfl | rfl⟩ := hi
  · rcases execReadConfig_cases ch with ⟨c, -, h⟩ | ⟨r, -, h⟩
    · exact ⟨fun chs => .response (configResponse c chs[c]), h⟩
    · exact ⟨fun _ => .refused r, h⟩
  · rcases execReadAudible_cases ch with ⟨c, -, h⟩ | ⟨r, -, h⟩
    · exact ⟨fun chs => .response (audibleResponse chs[c]), h⟩
    · exact ⟨fun _ => .refused r, h⟩

/-- Settles O21: NEXT_SAMPLE changes the channels of every state, so of the reset state and of the state it leads to. -/
theorem commandSideEffects : Obligations.CommandSideEffects := by
  refine ⟨⟨State.reset, _, _, exec_eq_execState _ _, exec_eq_execState _ _, execState_nextSample_channels_ne _,
    execState_nextSample_channels_ne _⟩, fun ch div mode vol s => ⟨_, _, exec_eq_execState _ s, exec_eq_execState _ _,
    execState_configure_twice ch div mode vol s⟩, fun i s hi => ?_⟩
  obtain ⟨answer, exec_eq⟩ := exec_read_eq_report hi
  refine ⟨_, _, answer s.channels, exec_eq s, exec_eq _, rfl, rfl, rfl, ?_⟩
  rw [State.report_outcomes, State.report_outcomes, State.report_channels, List.append_assoc, List.singleton_append]

/-! ### The tick after a CONFIGURE (R52) -/

/-- A CONFIGURE request whose operands are field values is never refused. -/
theorem execRequest_configure (s : State) (c : ChannelIndex) (d : BitVec 5) (m : BitVec 4) (v : BitVec 16) :
    execRequest s (.configure c.val d.toNat m.toNat v.toNat) = (s.setCh c ((s.ch c).configured d m v)).complete := by
  have accepted : (Request.configure c.val d.toNat m.toNat v.toNat).decode =
      .ok (.configure c.val d.toNat m.toNat v.toNat) :=
    acceptTyped_of_wellFormed (Instr.wellFormed_configure_iff.mpr ⟨c.isLt, d.isLt, m.isLt, v.isLt⟩)
  rw [execRequest, accepted]
  exact execState_of_next (exec_configure_fields s c d m v)

theorem execRequest_nextSample_ch (s : State) (i : ChannelIndex) :
    (execRequest s .nextSample).ch i = (s.ch i).tick s.div6Variant := by
  rw [execRequest_nextSample, State.respond_eq, State.report_ch, State.tickAll_ch]

/-- Settles O24: the run is the CONFIGURE and then one tick of the channels it left. -/
theorem configureInForceNextSample : Obligations.ConfigureInForceNextSample := by
  intro s c d m v hs
  refine ⟨_, runRequests_eq s _ hs, ?_⟩
  simp only [List.foldl_cons, List.foldl_nil, execRequest_nextSample_ch, execRequest_configure, State.complete_eq,
    State.report_ch, State.report_div6Variant, State.setCh_div6Variant]
  refine ⟨?_, fun i hi => ?_⟩
  · rw [State.ch_setCh_self, Channel.configured]
  · rw [State.ch_setCh_ne _ _ _ _ hi]

end Sys2Proof.Machine
end

section
/-! The encoding and the decoding undo each other (R56 to R67): the fields of an encoded word, the word of decoded fields, and
R67's decoder read on the numbers. -/

namespace Sys2Proof

open Sys2Proof.Machine (Instr.mode_or_command)

/-! ### The fields on the numbers -/

theorem opField_eq_iff (w : Word) (op : BitVec 2) : opField w = op ↔ w.toNat / 2 ^ 30 = op.toNat := by
  rw [← BitVec.toNat_inj, opField_toNat]

/-- The reserved bits, the low `len` ones, are zero as bits exactly when they are zero as a number (R64). -/
theorem extractLsb'_zero_eq_zero_iff (w : Word) (len : Nat) : w.extractLsb' 0 len = 0 ↔ w.toNat % 2 ^ len = 0 := by
  rw [← BitVec.toNat_inj, extractLsb'_toNat_eq, pow_zero, Nat.div_one]
  rfl

/-- Settles O3: the decoder's tests and fields, each rewritten to what it is on the word's number. -/
theorem commandWordDecodeTotal : Obligations.CommandWordDecodeTotal := by
  intro w n
  simp only [decodeCommand, opField_eq_iff, extractLsb'_zero_eq_zero_iff, chField_toNat, divField_toNat, modeField_toNat,
    volField_toNat, BitVec.toNat_ofNat, ne_eq, ite_not]
  rfl

/-! ### The fields of a READ_CONFIG or READ_AUDIBLE word (R62, R63) -/

section ChannelWord

variable (op : BitVec 2) (ch : BitVec 5)

theorem chField_channelWord : chField (channelWord op ch) = ch := by
  apply BitVec.eq_of_toNat_eq
  rw [chField_toNat, channelWord_toNat]
  omega

theorem reservedBits_channelWord : (channelWord op ch).extractLsb' 0 25 = 0 := by
  rw [extractLsb'_zero_eq_zero_iff, channelWord_toNat]
  omega

theorem decodeCommand_readConfigWord : decodeCommand (channelWord 0b10#2 ch) = .ok (.readConfig ch.toNat) := by
  simp [decodeCommand, opField_channelWord, reservedBits_channelWord, chField_channelWord]

theorem decodeCommand_readAudibleWord : decodeCommand (channelWord 0b11#2 ch) = .ok (.readAudible ch.toNat) := by
  simp [decodeCommand, opField_channelWord, reservedBits_channelWord, chField_channelWord]

end ChannelWord

/-- Settles O4: the words of the four commands are those of the fields they were written from (R60 to R63), the other two
break R64. -/
theorem writtenWordsDecode : Obligations.WrittenWordsDecode :=
  ⟨rfl, decodeCommand_configureWord 0 0 1 1000, decodeCommand_configureWord 3 31 4 1200, decodeCommand_readConfigWord 3,
    decodeCommand_readAudibleWord 31, by decide, by decide, rfl⟩

/-! ### The word of its own fields -/

section WordOfFields

variable {w : Word}

theorem eq_zero_of_fields (hop : opField w = 0b00#2) (hlow : w.extractLsb' 0 30 = 0) : w = 0 := by
  apply BitVec.eq_of_toNat_eq
  rw [opField_eq_iff, BitVec.toNat_ofNat] at hop
  rw [extractLsb'_zero_eq_zero_iff] at hlow
  show w.toNat = 0
  omega

theorem configureWord_fields (hop : opField w = 0b01#2) :
    configureWord (chField w) (divField w) (modeField w) (volField w) = w := by
  apply BitVec.eq_of_toNat_eq
  rw [opField_eq_iff, BitVec.toNat_ofNat] at hop
  rw [configureWord_toNat, chField_toNat, divField_toNat, modeField_toNat, volField_toNat]
  omega

theorem channelWord_fields {op : BitVec 2} (hop : opField w = op) (hlow : w.extractLsb' 0 25 = 0) :
    channelWord op (chField w) = w := by
  apply BitVec.eq_of_toNat_eq
  rw [opField_eq_iff] at hop
  rw [extractLsb'_zero_eq_zero_iff] at hlow
  rw [channelWord_toNat, chField_toNat]
  omega

end WordOfFields

/-! ### The encoding of a mode, and of a command given by its fields -/

theorem encode_decodeMode : ∀ m : BitVec 4, encode (decodeMode m) = .modeField m := by decide

theorem decodeMode_wellFormed : ∀ m : BitVec 4, (decodeMode m).WellFormed := by decide

theorem encode_configure_toNat (ch div : BitVec 5) (mode : BitVec 4) (vol : BitVec 16) :
    encode (.configure ch.toNat div.toNat mode.toNat vol.toNat) = .commandWord (configureWord ch div mode vol) := by
  simp only [encode, BitVec.ofNat_toNat, BitVec.setWidth_eq]

theorem encode_readConfig_toNat (ch : BitVec 5) :
    encode (.readConfig ch.toNat) = .commandWord (channelWord 0b10#2 ch) := by
  simp only [encode, BitVec.ofNat_toNat, BitVec.setWidth_eq]

theorem encode_readAudible_toNat (ch : BitVec 5) :
    encode (.readAudible ch.toNat) = .commandWord (channelWord 0b11#2 ch) := by
  simp only [encode, BitVec.ofNat_toNat, BitVec.setWidth_eq]

/-! ### The round trips -/

/-- An operand that fits its field is a value of the field. -/
theorem exists_toNat_eq {width k : Nat} (h : k < 2 ^ width) : ∃ x : BitVec width, x.toNat = k :=
  ⟨BitVec.ofNatLT k h, BitVec.toNat_ofNatLT k h⟩

/-- Settles O1: a mode is a mode field's decoding, and the operands of a well-formed command are field values. -/
theorem decodeEncodeRoundTrip : Obligations.DecodeEncodeRoundTrip := by
  intro i hi
  rcases Instr.mode_or_command i with ⟨m, rfl⟩ | rfl | ⟨ch, div, mode, vol, rfl⟩ | ⟨ch, rfl⟩ | ⟨ch, rfl⟩
  · rw [encode_decodeMode, decode]
  · rfl
  · obtain ⟨hch, hdiv, hmode, hvol⟩ := Instr.wellFormed_configure_iff.mp hi
    obtain ⟨c, rfl⟩ := exists_toNat_eq (width := 5) hch
    obtain ⟨d, rfl⟩ := exists_toNat_eq (width := 5) hdiv
    obtain ⟨m, rfl⟩ := exists_toNat_eq (width := 4) hmode
    obtain ⟨v, rfl⟩ := exists_toNat_eq (width := 16) hvol
    rw [encode_configure_toNat, decode, decodeCommand_configureWord]
  · obtain ⟨c, rfl⟩ := exists_toNat_eq (width := 5) (Instr.wellFormed_readConfig_iff.mp hi)
    rw [encode_readConfig_toNat, decode, decodeCommand_readConfigWord]
  · obtain ⟨c, rfl⟩ := exists_toNat_eq (width := 5) (Instr.wellFormed_readAudible_iff.mp hi)
    rw [encode_readAudible_toNat, decode, decodeCommand_readAudibleWord]

/-- The fourth op is what the decoder is left with after its three tests (R59). -/
theorem eq_readAudibleOp : ∀ {op : BitVec 2}, op ≠ 0b00#2 → op ≠ 0b01#2 → op ≠ 0b10#2 → op = 0b11#2 := by decide

/-- A word that decodes is the word of its fields, in the format of its op (R60 to R63). -/
theorem encode_of_decodeCommand {w : Word} {i : Instr} (h : decodeCommand w = .ok i) : encode i = .commandWord w := by
  unfold decodeCommand at h
  split_ifs at h with op0 low op1 reserved op2 <;> cases h
  · rw [eq_zero_of_fields op0 low]
    rfl
  · rw [encode_configure_toNat, configureWord_fields op1]
  · rw [encode_readConfig_toNat, channelWord_fields op2 (not_not.mp reserved)]
  · rw [encode_readAudible_toNat, channelWord_fields (eq_readAudibleOp op0 op1 op2) (not_not.mp reserved)]

/-- Settles O2: both kinds of encoded value hold nothing that decoding loses. -/
theorem encodeDecodeRoundTrip : Obligations.EncodeDecodeRoundTrip := by
  intro e i h
  cases e with
  | modeField m =>
    obtain rfl : decodeMode m = i := Except.ok.inj h
    exact ⟨decodeMode_wellFormed m, encode_decodeMode m⟩
  | commandWord w => exact ⟨decodeCommand_wellFormed h, encode_of_decodeCommand h⟩

end Sys2Proof
end

section
/-! A READ_CONFIG response reissued as a command (R46, R66). -/

namespace Sys2Proof.Machine

/-- A CONFIGURE with field values makes the channel bank the one with that channel configured and no other changed (R73). -/
theorem exec_configure_channels (s : State) (c : ChannelIndex) (d : BitVec 5) (m : BitVec 4) (v : BitVec 16) :
    ∃ u, exec (.configure c.val d.toNat m.toNat v.toNat) s = .next u ∧
      u.channels = (s.setCh c ((s.ch c).configured d m v)).channels :=
  ⟨_, exec_configure_fields s c d m v, rfl⟩

/-- Writing what a channel holds changes no channel. -/
theorem State.setCh_ch_self (s : State) (c : ChannelIndex) : (s.setCh c (s.ch c)).channels = s.channels := by
  apply State.channels_ext
  intro i
  rw [State.ch_setCh]
  split
  · next same => rw [same]
  · rfl

/-- Settles O23: the response decodes to the CONFIGURE of the channel's own three fields. The read has changed no channel, so
each of these writes starts from the channels of `s`. -/
theorem readConfigResponseReissued : Obligations.ReadConfigResponseReissued := by
  intro s c
  refine ⟨_, _, _, _, _, _, exec_readConfig s c, rfl, decodeCommand_configResponse c (s.ch c), ?_,
    fun d => exec_configure_channels _ c d _ _, fun m => exec_configure_channels _ c _ m _,
    fun v => exec_configure_channels _ c _ _ v⟩
  obtain ⟨u, exec_eq, channels_eq⟩ :=
    exec_configure_channels (s.respond (configResponse c (s.ch c))) c (s.ch c).divide (s.ch c).mode (s.ch c).volume
  exact ⟨u, exec_eq, channels_eq.trans (s.setCh_ch_self c)⟩

end Sys2Proof.Machine
end

section
/-! The assembler (R68, R69): what the text of each line reads as, and the words that a line assembles to. -/

namespace Sys2Proof.Machine

/-! ### The lines of text -/

section Lines

variable {c d m v : List Char} {ch div mode vol : Nat}

theorem lineOf_cfg (hc : numberOperand c = .ok ch) (hd : numberOperand d = .ok div) (hm : modeNameOperand m = .ok mode)
    (hv : numberOperand v = .ok vol) : lineOf "CFG".toList [c, d, m, v] = .ok (.cfg ch div mode vol) := by
  simp [lineOf, hc, hd, hm, hv, bind, Except.bind, pure, Except.pure]

theorem lineOf_rdcfg (hc : numberOperand c = .ok ch) : lineOf "RDCFG".toList [c] = .ok (.rdcfg ch) := by
  simp [lineOf, hc, bind, Except.bind, pure, Except.pure]

theorem lineOf_rdaud (hc : numberOperand c = .ok ch) : lineOf "RDAUD".toList [c] = .ok (.rdaud ch) := by
  simp [lineOf, hc, bind, Except.bind, pure, Except.pure]

theorem lineOf_run (hv : numberOperand v = .ok vol) : lineOf "RUN".toList [v] = .ok (.run vol) := by
  simp [lineOf, hv, bind, Except.bind, pure, Except.pure]

theorem lineOf_cfgall (hd : numberOperand d = .ok div) (hm : modeNameOperand m = .ok mode)
    (hv : numberOperand v = .ok vol) : lineOf "CFGALL".toList [d, m, v] = .ok (.cfgall div mode vol) := by
  simp [lineOf, hd, hm, hv, bind, Except.bind, pure, Except.pure]

end Lines

theorem lineOf_unknown {name : List Char} (operands : List (List Char))
    (h : name ∉ ["SAMPLE", "CFG", "RDCFG", "RDAUD", "RUN", "CFGALL"].map String.toList) :
    lineOf name operands = .error .unknownName := by
  simp only [List.map_cons, List.map_nil, List.mem_cons, List.not_mem_nil, or_false, not_or] at h
  obtain ⟨sample, cfg, rdcfg, rdaud, run, cfgall⟩ := h
  simp only [lineOf, if_neg sample, if_neg cfg, if_neg rdcfg, if_neg rdaud, if_neg run, if_neg cfgall]

theorem plainField_of_name : ∀ name ∈ ["SAMPLE", "CFG", "RDCFG", "RDAUD", "RUN", "CFGALL"].map String.toList,
    PlainField name := by
  simp [PlainField, isBlank]

/-- The text of a name and plain operands reads as the line they spell. -/
theorem parseLine_of_lineOf {name : List Char} {operands : List (List Char)} {l : AsmLine}
    (h : lineOf name operands = .ok l) (hos : ∀ o ∈ operands, PlainField o) :
    parseLine (lineText name operands) = .ok (some l) := by
  have known : name ∈ ["SAMPLE", "CFG", "RDCFG", "RDAUD", "RUN", "CFGALL"].map String.toList := by
    by_contra unknown
    exact absurd ((lineOf_unknown operands unknown).symm.trans h) (by simp)
  rw [parseLine_lineText (plainField_of_name name known) hos, h]
  rfl

/-- The six forms of a line, with their operands written in any of R68's ways. -/
theorem parseLine_forms {c d m v : List Char} {ch div mode vol : Nat} (hc : SpellsNumber c ch) (hd : SpellsNumber d div)
    (hm : SpellsMode m mode) (hv : SpellsNumber v vol) :
    parseLine (lineText "SAMPLE".toList []) = .ok (some .sample) ∧
    parseLine (lineText "CFG".toList [c, d, m, v]) = .ok (some (.cfg ch div mode vol)) ∧
    parseLine (lineText "RDCFG".toList [c]) = .ok (some (.rdcfg ch)) ∧
    parseLine (lineText "RDAUD".toList [c]) = .ok (some (.rdaud ch)) ∧
    parseLine (lineText "RUN".toList [v]) = .ok (some (.run vol)) ∧
    parseLine (lineText "CFGALL".toList [d, m, v]) = .ok (some (.cfgall div mode vol)) := by
  have plain_c := plainField_of_spellsNumber hc
  have plain_d := plainField_of_spellsNumber hd
  have plain_m := plainField_of_spellsMode hm
  have plain_v := plainField_of_spellsNumber hv
  have read_c := numberOperand_of_spells hc
  have read_d := numberOperand_of_spells hd
  have read_m := modeNameOperand_of_spells hm
  have read_v := numberOperand_of_spells hv
  refine ⟨parseLine_of_lineOf rfl ?_, parseLine_of_lineOf (lineOf_cfg read_c read_d read_m read_v) ?_,
    parseLine_of_lineOf (lineOf_rdcfg read_c) ?_, parseLine_of_lineOf (lineOf_rdaud read_c) ?_,
    parseLine_of_lineOf (lineOf_run read_v) ?_, parseLine_of_lineOf (lineOf_cfgall read_d read_m read_v) ?_⟩ <;>
  simp [*]

/-! ### The words of a line -/

theorem AsmLine.expand_run {n : Nat} (hn : 1 ≤ n) : (AsmLine.run n).expand = .ok (List.replicate n .nextSample) :=
  if_neg (by omega)

/-- A line stands for commands only: each of them is encoded as a command word. -/
theorem AsmLine.encode_of_mem_expand {l : AsmLine} {is : List Instr} (h : l.expand = .ok is) :
    ∀ i ∈ is, ∃ w, encode i = .commandWord w := by
  intro i hi
  cases l with
  | sample | cfg | rdcfg | rdaud =>
    cases h
    obtain rfl := List.mem_singleton.mp hi
    exact ⟨_, rfl⟩
  | run n =>
    rcases n.eq_zero_or_pos with rfl | pos
    · cases h
    · rw [AsmLine.expand_run pos] at h
      cases h
      obtain rfl := List.eq_of_mem_replicate hi
      exact ⟨_, rfl⟩
  | cfgall div mode vol =>
    cases h
    obtain ⟨ch, -, rfl⟩ := List.mem_map.mp hi
    exact ⟨_, rfl⟩

theorem AsmLine.assemble_of_expand {l : AsmLine} {is : List Instr} (h : l.expand = .ok is) :
    l.assemble = is.mapM assembleInstr := by
  rw [AsmLine.assemble, h]
  rfl

theorem assembleInstr_of_wellFormed {i : Instr} {w : Word} (hi : i.WellFormed) (hw : encode i = .commandWord w) :
    assembleInstr i = .ok w := by
  simp only [assembleInstr, hi, hw]

theorem assembleInstr_of_not_wellFormed {i : Instr} (hi : ¬ i.WellFormed) :
    ∃ r, assembleInstr i = .error (.operandRange r) := by
  obtain ⟨r, check_eq⟩ := Option.ne_none_iff_exists'.mp hi
  exact ⟨r, by simp only [assembleInstr, check_eq]⟩

/-- Well-formed commands assemble, each to a word that decodes to it. -/
theorem mapM_assembleInstr_of_wellFormed {is : List Instr} (hcmd : ∀ i ∈ is, ∃ w, encode i = .commandWord w)
    (hwf : ∀ i ∈ is, i.WellFormed) :
    ∃ ws, is.mapM assembleInstr = .ok ws ∧ ws.map decodeCommand = is.map Except.ok := by
  induction is with
  | nil => exact ⟨[], rfl, rfl⟩
  | cons i is ih =>
    obtain ⟨hi, his⟩ := List.forall_mem_cons.mp hwf
    obtain ⟨⟨w, hw⟩, hws⟩ := List.forall_mem_cons.mp hcmd
    obtain ⟨ws, mapM_eq, decode_eq⟩ := ih hws his
    have decode_w : decode (encode i) = .ok i := decodeEncodeRoundTrip i hi
    rw [hw] at decode_w
    refine ⟨w :: ws, ?_, ?_⟩
    · rw [List.mapM_cons, assembleInstr_of_wellFormed hi hw, mapM_eq]
      rfl
    · rw [List.map_cons, List.map_cons, decode_eq, ← decode_w, decode]

/-- The first command whose operands do not fit is the error of the line. -/
theorem mapM_assembleInstr_of_not_wellFormed {is : List Instr} (hcmd : ∀ i ∈ is, ∃ w, encode i = .commandWord w)
    (hbad : ∃ i ∈ is, ¬ i.WellFormed) : ∃ r, is.mapM assembleInstr = .error (.operandRange r) := by
  induction is with
  | nil => simp at hbad
  | cons i is ih =>
    obtain ⟨⟨w, hw⟩, hws⟩ := List.forall_mem_cons.mp hcmd
    by_cases hi : i.WellFormed
    · obtain ⟨r, mapM_eq⟩ := ih hws (by simpa [hi] using hbad)
      refine ⟨r, ?_⟩
      rw [List.mapM_cons, assembleInstr_of_wellFormed hi hw, mapM_eq]
      rfl
    · obtain ⟨r, assemble_eq⟩ := assembleInstr_of_not_wellFormed hi
      refine ⟨r, ?_⟩
      rw [List.mapM_cons, assemble_eq]
      rfl

/-- `RUN n` is `n` words of NEXT_SAMPLE, whose encoding is 0 (R61, R69). -/
theorem AsmLine.assemble_run {n : Nat} (hn : 1 ≤ n) : (AsmLine.run n).assemble = .ok (List.replicate n 0) := by
  rw [AsmLine.assemble_of_expand (AsmLine.expand_run hn)]
  clear hn
  induction n with
  | zero => rfl
  | succ n ih =>
    rw [List.replicate_succ, List.mapM_cons, ih, assembleInstr_of_wellFormed (w := 0) rfl rfl]
    rfl

/-- Settles O6: the text by `parseLine_forms`, the words by what the assembler does to the list of commands that a line stands
for. -/
theorem assembledWordsDecode : Obligations.AssembledWordsDecode := by
  refine ⟨fun _ _ _ _ _ _ _ _ => parseLine_forms, parseLine_comment, fun _ => lineOf_unknown, rfl, fun _ _ _ _ => rfl,
    fun _ => rfl, fun _ => rfl, fun l is h hwf => ?_, fun l is h hbad => ?_, fun _ => AsmLine.assemble_run, rfl,
    fun div mode vol => ⟨_, rfl, rfl, fun k hk => ?_⟩⟩
  · rw [AsmLine.assemble_of_expand h]
    exact mapM_assembleInstr_of_wellFormed (AsmLine.encode_of_mem_expand h) hwf
  · rw [AsmLine.assemble_of_expand h]
    exact mapM_assembleInstr_of_not_wellFormed (AsmLine.encode_of_mem_expand h) hbad
  · rw [List.getElem?_map, List.getElem?_range hk]
    rfl

end Sys2Proof.Machine
end

section
/-! The ChannelBank's commands (R70 to R73): the whole effect of each on a state, and its response as a number. -/

namespace Sys2Proof.Machine

theorem State.sameInterface_report (s : State) (o : CommandOutcome) : s.SameInterface (s.report o) := ⟨rfl, rfl, rfl⟩

/-- Settles O18: a CONFIGURE that fits is `State.setCh` with `Channel.configured`, which keeps the counter and registers, and
then the outcome `done`. -/
theorem configureWritesFields : Obligations.ConfigureWritesFields := by
  intro ch div mode vol s hch hdiv hmode hvol
  refine ⟨_, exec_configure_of_fits s hch hdiv hmode hvol, ?_⟩
  simp only [State.complete_eq, State.report_ch, State.ch_setCh_self]
  refine ⟨Nat.mod_eq_of_lt hdiv, Nat.mod_eq_of_lt hmode, Nat.mod_eq_of_lt hvol, ⟨rfl, rfl, rfl⟩, fun i hi => ?_,
    ⟨rfl, rfl, rfl⟩, rfl⟩
  exact State.ch_setCh_ne s ⟨ch, hch⟩ i _ (Fin.ne_of_val_ne hi)

/-- The response of READ_CONFIG on numbers, in the format of R60 (R71). -/
theorem configResponse_eq_ofNat (i : ChannelIndex) (c : Channel) :
    configResponse i c = BitVec.ofNat 32
      (1 * 2 ^ 30 + i.val * 2 ^ 25 + c.divide.toNat * 2 ^ 20 + c.mode.toNat * 2 ^ 16 + c.volume.toNat) :=
  calc configResponse i c
      = BitVec.ofNat 32 (configResponse i c).toNat := by rw [BitVec.ofNat_toNat, BitVec.setWidth_eq]
    _ = _ := congrArg (BitVec.ofNat 32) (configureWord_toNat (BitVec.ofFin i) c.divide c.mode c.volume)

/-- Settles O19: a READ_CONFIG that fits only reports its response. -/
theorem readConfigResponds : Obligations.ReadConfigResponds := by
  intro ch s hch c
  refine ⟨_, exec_readConfig s ⟨ch, hch⟩, rfl, s.sameInterface_report _, ?_⟩
  rw [State.respond_eq, State.report_outcomes, configResponse_eq_ofNat]

/-- Bit 3 of `reg4` is its top bit, so it is what division by 8 leaves. -/
theorem toNat_getLsbD_three (r : Reg4) : (r.getLsbD 3).toNat = r.toNat / 8 := by
  have := r.isLt
  rw [BitVec.getLsbD, Nat.toNat_testBit]
  omega

/-- Settles O20: a READ_AUDIBLE that fits only reports its response. -/
theorem readAudibleResponds : Obligations.ReadAudibleResponds := by
  intro ch s hch
  refine ⟨_, exec_readAudible s ⟨ch, hch⟩, rfl, s.sameInterface_report _, ?_⟩
  rw [State.respond_eq, State.report_outcomes, audibleResponse_eq, toNat_getLsbD_three]

end Sys2Proof.Machine
end

section
/-! The WaveformEngine's shift registers on the numbers (R82 to R91, R95): shifting in a bit doubles and adds, and the
three LFSR steps are one formula, `lfsr`, at three widths. O26 to O29. -/

namespace Sys2Proof.Machine

/-! ### Shifting in a bit -/

/-- A bit of a register as a number. -/
theorem toNat_getLsbD {n : Nat} (r : BitVec n) (k : Nat) : (r.getLsbD k).toNat = r.toNat / 2 ^ k % 2 := by
  rw [BitVec.getLsbD, Nat.toNat_testBit]

/-- The complement of a bit of a register as a number. -/
theorem toNat_not_getLsbD {n : Nat} (r : BitVec n) (k : Nat) :
    (!r.getLsbD k).toNat = if r.toNat / 2 ^ k % 2 = 1 then 0 else 1 := by
  rw [← toNat_getLsbD]
  cases r.getLsbD k <;> rfl

/-- XOR of two bits is their sum modulo 2. -/
theorem toNat_xor (a b : Bool) : (a ^^ b).toNat = (a.toNat + b.toNat) % 2 := by
  cases a <;> cases b <;> rfl

/-- SHIFTIN at every width: the shifted register and the new bit have no bit in common, so OR adds them (R13, R89). -/
theorem shiftIn_toNat {n : Nat} (r : BitVec n) (x : Bool) :
    (shiftIn n r x).toNat = (2 * r.toNat + x.toNat) % 2 ^ n := by
  cases n with
  | zero => rw [Nat.pow_zero, Nat.mod_one, BitVec.of_length_zero (x := shiftIn 0 r x)]; rfl
  | succ n =>
    have no_common_bit : r <<< 1 &&& (BitVec.ofBool x).setWidth (n + 1) = 0#(n + 1) := by
      ext k hk
      cases k <;> simp
    rw [shiftIn, ← BitVec.add_eq_or_of_and_eq_zero _ _ no_common_bit, BitVec.toNat_add, BitVec.toNat_shiftLeft,
      BitVec.toNat_setWidth, BitVec.toNat_ofBool]
    simp [Nat.shiftLeft_eq, Nat.mul_comm]

/-! ### The masks of the zero tests -/

theorem and_lowFive_eq_iff (a b : Reg5) : a &&& 0x1F = b &&& 0x1F ↔ a.toNat % 32 = b.toNat % 32 := by
  rw [← BitVec.toNat_inj, BitVec.toNat_and, BitVec.toNat_and]
  exact Eq.congr (Nat.and_two_pow_sub_one_eq_mod a.toNat 5) (Nat.and_two_pow_sub_one_eq_mod b.toNat 5)

theorem and_lowFive_eq_zero_iff (r : Reg5) : r &&& 0x1F = 0 ↔ r.toNat % 32 = 0 := and_lowFive_eq_iff r 0

theorem reg4_eq_zero_iff (r : Reg4) : r = 0 ↔ r.toNat = 0 := BitVec.toNat_inj.symm

theorem and_lowFour_eq_self (r : Reg4) : r &&& 0xF = r := BitVec.and_allOnes

/-- Bit 4 of P5 lies inside its low five bits. -/
theorem getLsbD_four_of_low_eq {a b : Reg5} (h : a.toNat % 32 = b.toNat % 32) : a.getLsbD 4 = b.getLsbD 4 := by
  have masked := congrArg (BitVec.getLsbD · 4) ((and_lowFive_eq_iff a b).mpr h)
  simpa using masked

/-! ### The LFSR steps -/

/-- One step of a `w`-bit LFSR with the taps `hi` and `lo`, injecting 1 at zero (R82): the shape of STEP4, STEP5 and
STEP9. -/
def lfsr (w hi lo : Nat) (j : Nat) : Nat := if j ≠ 0 then (2 * j + (j / 2 ^ hi + j / 2 ^ lo) % 2) % 2 ^ w else 1

/-- STEP4 with its zero test on the number (R83). -/
theorem step4_eq (r : Reg4) :
    step4 r = if r.toNat ≠ 0 then shiftIn 4 r (r.getLsbD 3 ^^ r.getLsbD 2) else 1 :=
  if_congr (by rw [and_lowFour_eq_self, ne_eq, reg4_eq_zero_iff]) rfl rfl

theorem step4_toNat (r : Reg4) : (step4 r).toNat = lfsr 4 3 2 r.toNat := by
  rw [step4_eq, lfsr]
  split
  · rw [shiftIn_toNat, toNat_xor, toNat_getLsbD, toNat_getLsbD, ← Nat.add_mod]
  · rfl

/-- STEP5 with its zero test on the number (R84). -/
theorem step5_eq (r : Reg5) :
    step5 r = if r.toNat % 32 ≠ 0 then shiftIn 6 r (r.getLsbD 4 ^^ r.getLsbD 2) else 1 :=
  if_congr (by rw [ne_eq, and_lowFive_eq_zero_iff]) rfl rfl

/-- STEP5 on all six bits that it writes (R84). -/
theorem step5_toNat (r : Reg5) : (step5 r).toNat =
    if r.toNat % 32 ≠ 0 then (2 * r.toNat + (r.toNat / 16 + r.toNat / 4) % 2) % 64 else 1 := by
  rw [step5_eq]
  split
  · rw [shiftIn_toNat, toNat_xor, toNat_getLsbD, toNat_getLsbD, ← Nat.add_mod]
    rfl
  · rfl

/-- STEP5 looks at the low five bits only (R92). -/
theorem step5_congr {a b : Reg5} (h : a.toNat % 32 = b.toNat % 32) : step5 a = step5 b := by
  have tap4 : a.toNat / 16 % 2 = b.toNat / 16 % 2 := by omega
  have tap2 : a.toNat / 4 % 2 = b.toNat / 4 % 2 := by omega
  rw [← BitVec.toNat_inj, step5_toNat, step5_toNat, h, Nat.add_mod (_ / 16), tap4, tap2, ← Nat.add_mod]
  split <;> omega

/-- On its low five bits STEP5 is a 5-bit LFSR. -/
theorem step5_low (r : Reg5) : (step5 r).toNat % 32 = lfsr 5 4 2 (r.toNat % 32) := by
  have tap4 : r.toNat % 32 / 2 ^ 4 % 2 = r.toNat / 16 % 2 := by omega
  have tap2 : r.toNat % 32 / 2 ^ 2 % 2 = r.toNat / 4 % 2 := by omega
  rw [step5_toNat, lfsr, Nat.add_mod (_ / 2 ^ 4), tap4, tap2, ← Nat.add_mod]
  split <;> omega

/-- The bit shifted out of bit 4 is kept in bit 5 (R26, R84). -/
theorem step5_getLsbD_five (r : Reg5) : (step5 r).getLsbD 5 = r.getLsbD 4 := by
  rw [step5_eq]
  split
  · rw [shiftIn_getLsbD]; rfl
  · next h => exact (getLsbD_four_of_low_eq (b := 0) (Decidable.not_not.mp h)).symm

/-- Settles O26: STEP4 and STEP5 as `lfsr` formulas. -/
theorem lfsrStepFormulas : Obligations.LfsrStepFormulas :=
  ⟨step4_toNat, step5_toNat, step5_getLsbD_five, by decide⟩

/-! ### The joint step -/

theorem jointValue_mk (r4 : Reg4) (r5 : Reg5) : jointValue (r4, r5) = r4.toNat * 32 + r5.toNat % 32 := rfl

theorem jointValue_eq_zero_iff (r4 : Reg4) (r5 : Reg5) : jointValue (r4, r5) = 0 ↔ r5.toNat % 32 = 0 ∧ r4 = 0 := by
  rw [reg4_eq_zero_iff, jointValue_mk]
  omega

theorem step9_fst (r4 : Reg4) (r5 : Reg5) : (step9 r4 r5).1 = shiftIn 4 r4 ((step9 r4 r5).2.getLsbD 5) := rfl

/-- P5 after STEP9: the injection needs both registers zero (R85). -/
theorem step9_snd (r4 : Reg4) (r5 : Reg5) :
    (step9 r4 r5).2 = if jointValue (r4, r5) ≠ 0 then shiftIn 6 r5 (r4.getLsbD 3 ^^ r5.getLsbD 4) else 1 := by
  have some_bit_iff : (r5 &&& 0x1F ≠ 0 ∨ r4 &&& 0xF ≠ 0) ↔ jointValue (r4, r5) ≠ 0 := by
    rw [and_lowFour_eq_self, ← not_and_or, and_lowFive_eq_zero_iff, ← jointValue_eq_zero_iff]
  exact if_congr some_bit_iff rfl rfl

theorem step9_getLsbD_five (r4 : Reg4) (r5 : Reg5) : (step9 r4 r5).2.getLsbD 5 = r5.getLsbD 4 := by
  rw [step9_snd]
  split
  · rw [shiftIn_getLsbD]; rfl
  · next h =>
    obtain ⟨low_zero, -⟩ := (jointValue_eq_zero_iff r4 r5).mp (Decidable.not_not.mp h)
    exact (getLsbD_four_of_low_eq (b := 0) low_zero).symm

/-- STEP9 looks at the low five bits of P5 only (R92). -/
theorem step9_congr (r4 : Reg4) {a b : Reg5} (h : a.toNat % 32 = b.toNat % 32) : step9 r4 a = step9 r4 b := by
  have joint_eq : jointValue (r4, a) = jointValue (r4, b) := by rw [jointValue_mk, jointValue_mk, h]
  have snd_eq : (step9 r4 a).2 = (step9 r4 b).2 := by
    rw [step9_snd, step9_snd, joint_eq, getLsbD_four_of_low_eq h, ← BitVec.toNat_inj]
    split
    · rw [shiftIn_toNat, shiftIn_toNat]; omega
    · rfl
  exact Prod.ext (by rw [step9_fst, step9_fst, snd_eq]) snd_eq

/-- STEP9 is a 9-bit LFSR on the joint value: the tap 8 is P4's bit 3 and the tap 4 is P5's bit 4, which is also the bit
that moves from P5 into P4 (R95). -/
theorem jointValue_step9 (r4 : Reg4) (r5 : Reg5) : jointValue (step9 r4 r5) = lfsr 9 8 4 (jointValue (r4, r5)) := by
  have fst_toNat : (step9 r4 r5).1.toNat = (2 * r4.toNat + r5.toNat / 16 % 2) % 16 := by
    rw [step9_fst, step9_getLsbD_five, shiftIn_toNat, toNat_getLsbD]
    rfl
  have feedback_eq : (jointValue (r4, r5) / 2 ^ 8 + jointValue (r4, r5) / 2 ^ 4) % 2 =
      (r4.getLsbD 3 ^^ r5.getLsbD 4).toNat := by
    have tap8 : (r4.toNat * 32 + r5.toNat % 32) / 2 ^ 8 % 2 = r4.toNat / 2 ^ 3 % 2 := by omega
    have tap4 : (r4.toNat * 32 + r5.toNat % 32) / 2 ^ 4 % 2 = r5.toNat / 2 ^ 4 % 2 := by omega
    rw [toNat_xor, toNat_getLsbD, toNat_getLsbD, jointValue_mk, Nat.add_mod, tap8, tap4]
  rw [lfsr, feedback_eq, jointValue, fst_toNat, step9_snd]
  by_cases h : jointValue (r4, r5) ≠ 0
  · have carry : ∀ b ≤ 1,
        2 * (r5.toNat % 32) + b = r5.toNat / 16 % 2 * 32 + (2 * r5.toNat + b) % 2 ^ 6 % 32 := by omega
    have := carry _ (Bool.toNat_le (r4.getLsbD 3 ^^ r5.getLsbD 4))
    rw [if_pos h, if_pos h, shiftIn_toNat, jointValue_mk]
    omega
  · rw [if_neg h, if_neg h]
    rw [ne_eq, Decidable.not_not, jointValue_mk] at h
    have injected : (1 : Reg5).toNat = 1 := rfl
    omega

/-- Settles O27: STEP9 as an `lfsr` formula on the joint value. -/
theorem jointStepIsNineBitLfsr : Obligations.JointStepIsNineBitLfsr :=
  ⟨jointValue_step9, step9_getLsbD_five, by decide⟩

/-! ### Iterating -/

/-- What holds after `k` applications and is kept by each further one holds from there on. -/
theorem iterate_settled {α : Type} {f : α → α} {x : α} {k n : Nat} {P : α → Prop} (start : P (f^[k] x))
    (kept : ∀ y, P y → P (f y)) (h : k ≤ n) : P (f^[n] x) := by
  induction n, h using Nat.le_induction with
  | base => exact start
  | succ n _ ih => rw [Function.iterate_succ_apply']; exact kept _ ih

/-! ### FILL1, DIV2 and the gates -/

/-- Four 1s fill the four bits, and the full register stays full (R86). -/
theorem fill1_iterate (r : Reg4) {n : Nat} (h : 4 ≤ n) : fill1^[n] r = 0xF := by
  have filled : ∀ r : Reg4, fill1^[4] r = 0xF := by decide
  refine iterate_settled (P := (· = 0xF)) (filled r) ?_ h
  rintro _ rfl
  rfl

theorem div2_alternating {r : Reg4} (h : r = 0x5 ∨ r = 0xA) : div2 r = 0x5 ∨ div2 r = 0xA := by
  rcases h with rfl | rfl
  · exact .inr rfl
  · exact .inl rfl

/-- After three firings DIV2 has put alternating bits into P4 (R87, R94). -/
theorem div2_iterate (r : Reg4) {n : Nat} (h : 3 ≤ n) : div2^[n] r = 0x5 ∨ div2^[n] r = 0xA := by
  have settled : ∀ r : Reg4, div2^[3] r = 0x5 ∨ div2^[3] r = 0xA := by decide
  exact iterate_settled (P := fun r => r = 0x5 ∨ r = 0xA) (settled r) (fun _ => div2_alternating) h

theorem audibleOf_div2 {r : Reg4} (h : r = 0x5 ∨ r = 0xA) : audibleOf (div2 r) = !audibleOf r := by
  rcases h with rfl | rfl <;> rfl

/-- Once P4 has alternating bits, DIV2 toggles the audible bit (R87). -/
theorem audibleOf_div2_iterate (r : Reg4) {n : Nat} (h : 3 ≤ n) :
    audibleOf (div2^[n + 1] r) = !audibleOf (div2^[n] r) := by
  rw [Function.iterate_succ_apply']
  exact audibleOf_div2 (div2_iterate r h)

theorem div2_toNat (r : Reg4) : (div2 r).toNat = (2 * r.toNat + (if r.toNat % 2 = 1 then 0 else 1)) % 16 := by
  rw [div2, shiftIn_toNat, toNat_not_getLsbD, Nat.pow_zero, Nat.div_one]
  rfl

/-- GATE31 on the numbers (R90). -/
theorem gate31_eq (v : Reg5) : gate31 v = decide (v.toNat % 16 = 8) := by
  rw [gate31, Bool.beq_eq_decide_eq, decide_eq_decide, ← BitVec.toNat_inj, BitVec.toNat_and]
  exact Eq.congr_left (Nat.and_two_pow_sub_one_eq_mod v.toNat 4)

/-- GATEB4 on the numbers (R91). -/
theorem gateB4_eq (v : Reg5) : gateB4 v = decide (v.toNat / 16 % 2 = 1) := Nat.testBit_eq_decide_div_mod_eq

/-- Settles O28: the formulas of the shifts and gates, and where FILL1 and DIV2 settle. -/
theorem shiftAndGateFormulas : Obligations.ShiftAndGateFormulas := by
  refine ⟨fun r => shiftIn_toNat r true, fun r _ hn => fill1_iterate r hn, rfl, rfl, rfl, div2_toNat,
    fun r => shiftIn_getLsbD r _ 3, fun r _ hn => audibleOf_div2_iterate r hn, rfl, rfl, rfl, rfl, shiftIn_toNat,
    fun v => ⟨?_, ?_⟩⟩
  · rw [gate31_eq, decide_eq_true_iff]
  · rw [gateB4_eq, decide_eq_true_iff]

/-! ### DIV6 -/

/-- The feedback of R88's formula, before its outer NOT, on the numbers: bit 2 is clear and a lower bit is set. -/
theorem div6_feedback : ∀ r : Reg4,
    (!r.getLsbD 2 && (r &&& 7) != 0) = decide (r.toNat / 4 % 2 = 0 ∧ r.toNat % 8 ≠ 0) := by decide

theorem toNat_not_reg4 (r : Reg4) : (~~~r).toNat = 15 - r.toNat := BitVec.toNat_not

/-- Settles O29: the formulas are SHIFTIN's with each variant's feedback; the rest is each variant on the 16 values of
P4. -/
theorem div6FormulasAndOrbits : Obligations.Div6FormulasAndOrbits := by
  refine ⟨fun r => ⟨?_, ?_, ?_⟩, by decide, ?_, by decide⟩
  · rw [div6, shiftIn_toNat, toNat_not_reg4, div6_feedback]
    split <;> simp [*]
  · rw [div6, shiftIn_toNat, toNat_not_reg4, div6_feedback]
    split <;> simp [*]
  · rw [div6, shiftIn_toNat, toNat_not_getLsbD]
    split <;> split <;> omega
  · have reaches_two : ∀ r : Reg4, ∃ n < 10, (div6 .negatedFeedback)^[n] r = 0x2 := by decide
    refine ⟨rfl, rfl, rfl, rfl, rfl, rfl, fun r => ?_, by decide⟩
    obtain ⟨n, -, hn⟩ := reaches_two r
    exact ⟨n, hn⟩

end Sys2Proof.Machine
end

section
/-! The WaveformEngine's dispatch (R80, R99, R121): each mode run by itself and in NEXT_SAMPLE is the dispatch's arm for
its value. What follows for bit 5 of P5 (R119) and for values that share a rule (R116, R117). O30, O44, O48, O60 and
O47. -/

namespace Sys2Proof.Machine

/-! ### Every mode is the dispatch's arm for its value -/

theorem firesAs_decodeMode (m : BitVec 4) : FiresAs (decodeMode m) (fun v => fire v m) := by
  intro s c hf
  refine ⟨_, exec_eq_execState _ _, ?_⟩
  rw [execState_decodeMode, State.applyFiring_some hf, State.ch_with_firing, State.ch_setCh_self]
  exact ⟨rfl, ⟨rfl, rfl, rfl⟩, rfl, fun d hd => State.ch_setCh_ne s c d _ hd, rfl, rfl, rfl, rfl⟩

theorem exec_decodeMode_of_not_firing (m : BitVec 4) {s : State} (hf : s.firing = none) :
    exec (decodeMode m) s = .next s := by
  rw [exec_eq_execState, execState_decodeMode, State.applyFiring_none hf]

/-- Settles O30: `decodeMode` and the dispatch read a mode field alike. -/
theorem modesAgreeWithDispatch : Obligations.ModesAgreeWithDispatch :=
  ⟨firesAs_decodeMode, fun m _ hf => exec_decodeMode_of_not_firing m hf⟩

/-- The firing condition of R121, on the counter that the tick leaves. -/
theorem Channel.advanceDivider_fires_iff (v : Div6Variant) (x : Channel) :
    x.advanceDivider.fires = true ↔ (x.tick v).counter = 0 ∨ (x.tick v).counter.toNat = x.divide.toNat + 1 := by
  rw [Channel.tick_counter, Channel.fires, Bool.or_eq_true, beq_iff_eq, beq_iff_eq, ← BitVec.toNat_inj]
  rfl

theorem Channel.tick_of_fires (v : Div6Variant) {x : Channel} (h : x.advanceDivider.fires = true) :
    x.tick v = x.advanceDivider.fire v := if_pos h

theorem Channel.tick_of_not_fires (v : Div6Variant) {x : Channel} (h : ¬ x.advanceDivider.fires = true) :
    x.tick v = x.advanceDivider := if_neg h

theorem nextSampleApplies_fire (m : BitVec 4) : NextSampleApplies m (fun v => fire v m) := by
  rintro s c rfl
  refine ⟨_, exec_eq_execState _ _, ?_⟩
  rw [execState_nextSample, State.respond_eq, State.report_ch, State.tickAll_ch]
  by_cases h : (s.ch c).advanceDivider.fires = true
  · rw [if_pos ((Channel.advanceDivider_fires_iff _ _).mp h), Channel.tick_of_fires _ h]
    rfl
  · rw [if_neg (mt (Channel.advanceDivider_fires_iff _ _).mpr h), Channel.tick_of_not_fires _ h]
    rfl

theorem readConfigShowsMode (m : BitVec 4) : ReadConfigShowsMode m := by
  rintro s c rfl
  exact ⟨_, _, exec_readConfig s c, rfl, modeField_configureWord ..⟩

/-- Settles O44: the dispatch's arms for 5, 11 and 13 have the bodies of those for 4, 0 and 12. -/
theorem aliasModesFiring : Obligations.AliasModesFiring :=
  ⟨rfl, firesAs_decodeMode 5, nextSampleApplies_fire 5, fun _ => rfl, readConfigShowsMode 5, rfl,
    rfl, firesAs_decodeMode 11, nextSampleApplies_fire 11, fun _ => rfl, readConfigShowsMode 11, rfl,
    rfl, firesAs_decodeMode 13, nextSampleApplies_fire 13, fun _ => rfl, readConfigShowsMode 13, rfl⟩

/-! ### Bit 5 of P5 in one firing (R92, R119) -/

/-- The modes whose rule steps P5. -/
def p5Modes : List (BitVec 4) := [2#4, 3, 6, 7, 8, 9, 10, 14, 15]

/-- The modes whose rule names P4 only. -/
def p4Modes : List (BitVec 4) := [0#4, 1, 4, 5, 11, 12, 13]

theorem mem_p4Modes_iff : ∀ m, m ∈ p4Modes ↔ m ∉ p5Modes := by decide

/-- A mode that names P4 only keeps P5 whole and computes the new P4 without it. -/
theorem fire_of_mem_p4Modes (v : Div6Variant) {m : BitVec 4} (hm : m ∈ p4Modes) :
    ∃ g : Reg4 → Reg4, ∀ r4 r5, fire v m r4 r5 = (g r4, r5) := by
  simp only [p4Modes, List.mem_cons, List.not_mem_nil, or_false] at hm
  rcases hm with rfl | rfl | rfl | rfl | rfl | rfl | rfl <;> exact ⟨_, fun _ _ => rfl⟩

/-- A mode that steps P5 reads it through STEP5 or STEP9 alone, and these look at its low five bits only. -/
theorem fire_congr_of_mem_p5Modes (v : Div6Variant) {m : BitVec 4} (hm : m ∈ p5Modes) (r4 : Reg4) {a b : Reg5}
    (h : a.toNat % 32 = b.toNat % 32) : fire v m r4 a = fire v m r4 b := by
  simp only [p5Modes, List.mem_cons, List.not_mem_nil, or_false] at hm
  rcases hm with rfl | rfl | rfl | rfl | rfl | rfl | rfl | rfl | rfl
  case inr.inr.inr.inr.inl => exact step9_congr r4 h
  all_goals simp only [fire, BitVec.reduceToNat, mode2Rule, mode3Rule, mode6Rule, mode7Rule, mode9Rule, mode10Rule,
    mode14Rule, mode15Rule, step5_congr h]

/-- Settles O48: by the two kinds of mode. -/
theorem extensionBitNeverRead : Obligations.ExtensionBitNeverRead := by
  intro v m r4 a b h
  by_cases hm : m ∈ p5Modes
  · have fire_eq := fire_congr_of_mem_p5Modes v hm r4 ((and_lowFive_eq_iff a b).mp h)
    rw [fire_eq]
    exact ⟨rfl, rfl, fun _ => rfl, fun hm4 => absurd hm ((mem_p4Modes_iff m).mp hm4)⟩
  · obtain ⟨g, fire_eq⟩ := fire_of_mem_p4Modes v ((mem_p4Modes_iff m).mpr hm)
    rw [fire_eq, fire_eq]
    exact ⟨rfl, h, fun hm5 => absurd hm5 hm, fun _ => rfl⟩

/-! ### Bit 5 of P5 in a run (R34, R119) -/

section Extension

variable {x y : Channel}

theorem Channel.SameButExtension.withFire (h : x.SameButExtension y) (v : Div6Variant) (m : BitVec 4) :
    (x.withRegs (Machine.fire v m x.reg4 x.reg5)).SameButExtension (y.withRegs (Machine.fire v m y.reg4 y.reg5)) := by
  obtain ⟨config, counter_eq, reg4_eq, low_eq⟩ := h
  obtain ⟨fst_eq, snd_low_eq, -, -⟩ := extensionBitNeverRead v m y.reg4 x.reg5 y.reg5 low_eq
  rw [reg4_eq]
  exact ⟨config, counter_eq, fst_eq, snd_low_eq⟩

theorem Channel.SameButExtension.advanceDivider (h : x.SameButExtension y) :
    x.advanceDivider.SameButExtension y.advanceDivider := by
  obtain ⟨⟨divide_eq, mode_eq, volume_eq⟩, counter_eq, regs⟩ := h
  refine ⟨⟨divide_eq, mode_eq, volume_eq⟩, ?_, regs⟩
  rw [Channel.advanceDivider, Channel.advanceDivider, divide_eq, counter_eq]

theorem Channel.SameButExtension.tick (h : x.SameButExtension y) (v : Div6Variant) :
    (x.tick v).SameButExtension (y.tick v) := by
  obtain ⟨⟨divide_eq, mode_eq, _⟩, counter_eq, -⟩ := h.advanceDivider
  have fires_eq : x.advanceDivider.fires = y.advanceDivider.fires := by
    rw [Channel.fires, Channel.fires, counter_eq, divide_eq]
  by_cases hy : y.advanceDivider.fires = true
  · rw [Channel.tick_of_fires v hy, Channel.tick_of_fires v (fires_eq.trans hy), Channel.fire, Channel.fire, mode_eq]
    exact h.advanceDivider.withFire v _
  · rw [Channel.tick_of_not_fires v hy, Channel.tick_of_not_fires v (fires_eq ▸ hy)]
    exact h.advanceDivider

/-- No effect of an instruction lets bit 5 reach another bit. -/
theorem ChannelEffect.sameButExtension {v : Div6Variant} {i : Instr} {g : Channel → Channel}
    (hg : ChannelEffect v i g) (h : x.SameButExtension y) : (g x).SameButExtension (g y) := by
  cases hg with
  | kept _ => exact h
  | ticked => exact h.tick v
  | configured =>
    obtain ⟨-, internal⟩ := h
    exact ⟨⟨rfl, rfl, rfl⟩, internal⟩
  | fired m _ => exact h.withFire v m

theorem configResponse_congr (h : x.SameButExtension y) (i : ChannelIndex) :
    configResponse i x = configResponse i y := by
  obtain ⟨⟨divide_eq, mode_eq, volume_eq⟩, -⟩ := h
  rw [configResponse, configResponse, divide_eq, mode_eq, volume_eq]

theorem audibleResponse_congr (h : x.SameButExtension y) : audibleResponse x = audibleResponse y := by
  obtain ⟨-, -, reg4_eq, -⟩ := h
  rw [audibleResponse_eq, audibleResponse_eq, reg4_eq]

theorem State.mixed_congr {s t : State} (h : ∀ i, (s.ch i).SameButExtension (t.ch i)) : s.mixed = t.mixed := by
  rw [State.mixed_eq_sum, State.mixed_eq_sum]
  refine Finset.sum_congr rfl fun i _ => ?_
  obtain ⟨⟨-, -, volume_eq⟩, -, reg4_eq, -⟩ := h i
  rw [Channel.audible, Channel.audible, volume_eq, reg4_eq]

/-- Two states between commands that differ at most in bit 5 of their channels' P5, as the host sees them. -/
structure State.SameButExtension (s t : State) : Prop where
  firing_left : s.firing = none
  firing_right : t.firing = none
  div6Variant_eq : s.div6Variant = t.div6Variant
  outcomes_eq : s.outcomes = t.outcomes
  ch : ∀ i, (s.ch i).SameButExtension (t.ch i)

variable {s t : State}

theorem State.SameButExtension.report (h : s.SameButExtension t) (o : CommandOutcome) :
    (s.report o).SameButExtension (t.report o) where
  firing_left := h.firing_left
  firing_right := h.firing_right
  div6Variant_eq := h.div6Variant_eq
  outcomes_eq := by rw [State.report_outcomes, State.report_outcomes, h.outcomes_eq]
  ch := h.ch

theorem State.SameButExtension.tickAll (h : s.SameButExtension t) : s.tickAll.SameButExtension t.tickAll where
  firing_left := h.firing_left
  firing_right := h.firing_right
  div6Variant_eq := h.div6Variant_eq
  outcomes_eq := h.outcomes_eq
  ch i := by rw [State.tickAll_ch, State.tickAll_ch, h.div6Variant_eq]; exact (h.ch i).tick _

/-- The two states answer an instruction alike. -/
theorem State.SameButExtension.outcomes_execState (h : s.SameButExtension t) (i : Instr) :
    (execState i s).outcomes = (execState i t).outcomes := by
  rcases Instr.mode_or_command i with
    ⟨m, rfl⟩ | rfl | ⟨ch, div, mode, vol, rfl⟩ | ⟨ch, rfl⟩ | ⟨ch, rfl⟩
  · rw [execState_decodeMode, execState_decodeMode, State.applyFiring_none h.firing_left,
      State.applyFiring_none h.firing_right, h.outcomes_eq]
  · rw [execState_nextSample, execState_nextSample, State.mixed_congr h.tickAll.ch]
    exact (h.tickAll.report _).outcomes_eq
  · rcases execConfigure_cases ch div mode vol with ⟨o, -, e⟩ | ⟨r, -, e⟩ <;>
      · rw [execState_of_next (e s), execState_of_next (e t)]
        exact (h.report _).outcomes_eq
  · rcases execReadConfig_cases ch with ⟨c, -, e⟩ | ⟨r, -, e⟩
    · rw [execState_of_next (e s), execState_of_next (e t), configResponse_congr (h.ch c)]
      exact (h.report _).outcomes_eq
    · rw [execState_of_next (e s), execState_of_next (e t)]
      exact (h.report _).outcomes_eq
  · rcases execReadAudible_cases ch with ⟨c, -, e⟩ | ⟨r, -, e⟩
    · rw [execState_of_next (e s), execState_of_next (e t), audibleResponse_congr (h.ch c)]
      exact (h.report _).outcomes_eq
    · rw [execState_of_next (e s), execState_of_next (e t)]
      exact (h.report _).outcomes_eq

theorem State.SameButExtension.execState (h : s.SameButExtension t) (i : Instr) :
    (execState i s).SameButExtension (execState i t) where
  firing_left := execState_firing i s h.firing_left
  firing_right := execState_firing i t h.firing_right
  div6Variant_eq := by rw [execState_div6Variant, execState_div6Variant, h.div6Variant_eq]
  outcomes_eq := h.outcomes_execState i
  ch c := by
    obtain ⟨g, effect, apply_eq⟩ := exists_channelEffect i t.div6Variant none c
    rw [apply_eq s h.div6Variant_eq h.firing_left, apply_eq t rfl h.firing_right]
    exact effect.sameButExtension (h.ch c)

theorem State.SameButExtension.execRequest (h : s.SameButExtension t) (r : Request) :
    (execRequest s r).SameButExtension (execRequest t r) := by
  unfold Machine.execRequest
  cases r.decode with
  | ok i => exact h.execState i
  | error e => exact h.report (.refused e)

theorem State.SameButExtension.foldl_execRequest (rs : List Request) {s t : State} (h : s.SameButExtension t) :
    (rs.foldl Machine.execRequest s).SameButExtension (rs.foldl Machine.execRequest t) := by
  induction rs generalizing s t with
  | nil => exact h
  | cons r rest ih => exact ih (h.execRequest r)

end Extension

/-- Settles O60: every request of the run keeps the relation, which holds equal outcomes. -/
theorem extensionBitNeverObserved : Obligations.ExtensionBitNeverObserved := by
  intro s t rs hs ht variant_eq outcomes_eq same
  have related := State.SameButExtension.foldl_execRequest rs ⟨hs.1, ht.1, variant_eq, outcomes_eq, same⟩
  exact ⟨_, _, runRequests_eq s rs hs, runRequests_eq t rs ht, related.outcomes_eq, related.ch⟩

/-! ### The thirteen distinct rules (R116, R117) -/

/-- One value of each of R117's thirteen classes. -/
def distinctModes : List (BitVec 4) := [0, 1, 2, 3, 4, 6, 7, 8, 9, 10, 12, 14, 15]

/-- The value of `distinctModes` in the class of `m`. -/
def canonicalMode (m : BitVec 4) : BitVec 4 := if m = 11 then 0 else if m = 5 then 4 else if m = 13 then 12 else m

theorem canonicalMode_mem : ∀ m, canonicalMode m ∈ distinctModes := by decide

theorem canonicalMode_eq_iff : ∀ m n, canonicalMode m = canonicalMode n ↔
    m = n ∨ (m = 0 ∧ n = 11) ∨ (m = 11 ∧ n = 0) ∨ (m = 4 ∧ n = 5) ∨ (m = 5 ∧ n = 4) ∨
      (m = 12 ∧ n = 13) ∨ (m = 13 ∧ n = 12) := by decide

/-- The value that a mode value shares its class with has the same rule (R116). -/
theorem fire_canonicalMode (v : Div6Variant) (m : BitVec 4) : fire v (canonicalMode m) = fire v m := by
  unfold canonicalMode
  split_ifs with h11 h5 h13
  · rw [h11]; rfl
  · rw [h5]; rfl
  · rw [h13]; rfl
  · rfl

/-- Three inputs that tell the thirteen rules apart: on the first, STEP5 opens GATE31 alone, on the others both
gates. -/
def probes : List (Reg4 × Reg5) := [(0x1, 0x14), (0x1, 0x1C), (0x5, 0x1C)]

/-- What the rule of a mode value makes of the three inputs. -/
def probeOutputs (v : Div6Variant) (m : BitVec 4) : List (Reg4 × Reg5) := probes.map fun p => fire v m p.1 p.2

theorem nodup_probeOutputs (v : Div6Variant) : (distinctModes.map (probeOutputs v)).Nodup := by
  cases v with
  | asWritten => decide
  | negatedFeedback => decide
  | twistedRing => decide

theorem probeOutputs_canonicalMode (v : Div6Variant) (m : BitVec 4) :
    probeOutputs v (canonicalMode m) = probeOutputs v m := by
  rw [probeOutputs, fire_canonicalMode, probeOutputs]

/-- Settles O47: equal rules have equal outputs on the probes, hence the same canonical value. -/
theorem aliasModesExactly : Obligations.AliasModesExactly := by
  intro v m n
  rw [← canonicalMode_eq_iff]
  constructor
  · intro same_rule
    refine List.inj_on_of_nodup_map (nodup_probeOutputs v) (canonicalMode_mem m) (canonicalMode_mem n) ?_
    rw [probeOutputs_canonicalMode, probeOutputs_canonicalMode]
    exact List.map_congr_left fun p _ => same_rule p.1 p.2
  · intro same_class r4 r5
    rw [← fire_canonicalMode v m, same_class, fire_canonicalMode]

end Sys2Proof.Machine
end

section
/-! Maximal-length LFSRs (R93, R96): when the orbit of 1 has as many values as there are non-zero ones, every non-zero
value lies on it, so each has that period, and one period meets each value exactly once. O45 and O46. -/

namespace Sys2Proof.Machine

open Function (minimalPeriod)

/-- The least period is `n` when `n` is a period and no `n / p`, with `p` prime, is one. -/
theorem minimalPeriod_eq_of_prime_quotients {α : Type} {f : α → α} {x : α} {n : Nat} (period : f^[n] x = x)
    (least : ∀ p, p.Prime → p ∣ n → f^[n / p] x ≠ x) : minimalPeriod f x = n := by
  obtain ⟨q, hq⟩ : minimalPeriod f x ∣ n := Function.IsPeriodicPt.minimalPeriod_dvd period
  by_contra not_least
  obtain ⟨p, hp, m, rfl⟩ := Nat.exists_prime_and_dvd (n := q) (by rintro rfl; omega)
  refine least p hp ⟨minimalPeriod f x * m, by rw [hq, Nat.mul_left_comm]⟩ ?_
  rw [hq, Nat.mul_left_comm, Nat.mul_div_cancel_left _ hp.pos]
  exact (Function.isPeriodicPt_minimalPeriod f x).mul_const m

/-! ### One cycle through all non-zero values -/

/-- `f` injects 1 at zero, leads from each of `1..N` to one of them, and comes back to 1 after `N` steps and not
before. -/
structure MaximalLength (f : Nat → Nat) (N : Nat) : Prop where
  pos : 0 < N
  zero : f 0 = 1
  keeps : ∀ j, 0 < j → j ≤ N → 0 < f j ∧ f j ≤ N
  period_one : minimalPeriod f 1 = N

section MaximalLength

variable {f : Nat → Nat} {N j : Nat}

theorem MaximalLength.apply_mem (hf : MaximalLength f N) (hj : j ≤ N) : 0 < f j ∧ f j ≤ N := by
  rcases Nat.eq_zero_or_pos j with rfl | pos
  · rw [hf.zero]
    exact ⟨Nat.one_pos, hf.pos⟩
  · exact hf.keeps j pos hj

theorem MaximalLength.iterate_mem (hf : MaximalLength f N) (hj : 0 < j ∧ j ≤ N) (k : Nat) :
    0 < f^[k] j ∧ f^[k] j ≤ N :=
  iterate_settled (P := fun i => 0 < i ∧ i ≤ N) (k := 0) hj (fun i hi => hf.keeps i hi.1 hi.2) (Nat.zero_le k)

theorem injOn_iterate_of_period (period : minimalPeriod f j = N) :
    Set.InjOn (fun k => f^[k] j) (Finset.range N) := by
  rw [Finset.coe_range, ← period]
  exact Function.iterate_injOn_Iio_minimalPeriod

/-- A value of period `N` runs through all of `1..N`: these `N` values are distinct and there are no others. -/
theorem MaximalLength.image_range (hf : MaximalLength f N) (hj : 0 < j ∧ j ≤ N) (period : minimalPeriod f j = N) :
    (Finset.range N).image (fun k => f^[k] j) = Finset.Icc 1 N := by
  apply Finset.eq_of_subset_of_card_le
  · intro i hi
    obtain ⟨k, -, rfl⟩ := Finset.mem_image.mp hi
    exact Finset.mem_Icc.mpr (hf.iterate_mem hj k)
  · rw [Finset.card_image_of_injOn (injOn_iterate_of_period period), Nat.card_Icc, Finset.card_range,
      Nat.add_sub_cancel]

theorem MaximalLength.minimalPeriod_eq (hf : MaximalLength f N) (hj : 0 < j ∧ j ≤ N) : minimalPeriod f j = N := by
  have on_cycle : j ∈ (Finset.range N).image (fun k => f^[k] 1) := by
    rw [hf.image_range ⟨Nat.one_pos, hf.pos⟩ hf.period_one]
    exact Finset.mem_Icc.mpr hj
  obtain ⟨k, -, rfl⟩ := Finset.mem_image.mp on_cycle
  have periodic : 1 ∈ Function.periodicPts f := by
    rw [← Function.minimalPeriod_pos_iff_mem_periodicPts, hf.period_one]
    exact hf.pos
  exact (Function.minimalPeriod_apply_iterate periodic k).trans hf.period_one

theorem MaximalLength.iterate_eq_self_iff (hf : MaximalLength f N) (hj : 0 < j ∧ j ≤ N) (n : Nat) :
    f^[n] j = j ↔ N ∣ n := by
  rw [← hf.minimalPeriod_eq hj]
  exact Function.isPeriodicPt_iff_minimalPeriod_dvd

/-- From zero the injected 1 starts the cycle. -/
theorem MaximalLength.iterate_succ_zero (hf : MaximalLength f N) (n : Nat) : f^[n + 1] 0 = f^[n % N] 1 := by
  rw [Function.iterate_succ_apply, hf.zero, ← hf.period_one, Function.iterate_mod_minimalPeriod_eq]

/-- One period meets a property as often as `1..N` has it. -/
theorem MaximalLength.length_filter_period (hf : MaximalLength f N) (hj : 0 < j ∧ j ≤ N) (p : Nat → Bool) :
    ((List.range N).filter fun n => p (f^[n] j)).length = ((Finset.Icc 1 N).filter fun i => p i).card := by
  have injective := injOn_iterate_of_period (hf.minimalPeriod_eq hj)
  rw [← hf.image_range hj (hf.minimalPeriod_eq hj), Finset.filter_image,
    Finset.card_image_of_injOn (injective.mono (Finset.coe_subset.mpr (Finset.filter_subset _ _)))]
  simp [Finset.card_def, Multiset.range]

end MaximalLength

/-! ### The three LFSRs (R93) -/

theorem maximalLength_lfsr4 : MaximalLength (lfsr 4 3 2) 15 where
  pos := by decide
  zero := rfl
  keeps j pos le := by rw [lfsr, if_pos pos.ne']; omega
  period_one := by
    refine minimalPeriod_eq_of_prime_quotients (by decide) fun p hp hdvd => ?_
    rcases hp.dvd_mul.mp (show p ∣ 3 * 5 from hdvd) with h | h
    · rw [(Nat.prime_dvd_prime_iff_eq hp (by norm_num)).mp h]; decide
    · rw [(Nat.prime_dvd_prime_iff_eq hp (by norm_num)).mp h]; decide

theorem maximalLength_lfsr5 : MaximalLength (lfsr 5 4 2) 31 where
  pos := by decide
  zero := rfl
  keeps j pos le := by rw [lfsr, if_pos pos.ne']; omega
  period_one := by
    refine minimalPeriod_eq_of_prime_quotients (by decide) fun p hp hdvd => ?_
    rw [(Nat.prime_dvd_prime_iff_eq hp (by norm_num)).mp hdvd]; decide

/-- The kernel alone evaluates the 511 steps: they are too deep for the elaborator's `decide`. -/
theorem maximalLength_lfsr9 : MaximalLength (lfsr 9 8 4) 511 where
  pos := by decide
  zero := rfl
  keeps j pos le := by rw [lfsr, if_pos pos.ne']; omega
  period_one := by
    refine minimalPeriod_eq_of_prime_quotients (by decide +kernel) fun p hp hdvd => ?_
    rcases hp.dvd_mul.mp (show p ∣ 7 * 73 from hdvd) with h | h
    · rw [(Nat.prime_dvd_prime_iff_eq hp (by norm_num)).mp h]; decide +kernel
    · rw [(Nat.prime_dvd_prime_iff_eq hp (by norm_num)).mp h]; decide +kernel

/-! ### The registers follow them -/

theorem step4_iterate_toNat (r : Reg4) (n : Nat) : (step4^[n] r).toNat = (lfsr 4 3 2)^[n] r.toNat :=
  Function.Semiconj.iterate_right step4_toNat n r

theorem step5_iterate_low (r : Reg5) (n : Nat) : (step5^[n] r).toNat % 32 = (lfsr 5 4 2)^[n] (r.toNat % 32) :=
  Function.Semiconj.iterate_right (f := fun r : Reg5 => r.toNat % 32) step5_low n r

theorem jointValue_firings_step9 (p : Reg4 × Reg5) (n : Nat) :
    jointValue (firings step9 n p) = (lfsr 9 8 4)^[n] (jointValue p) :=
  Function.Semiconj.iterate_right (f := jointValue) (fun q => jointValue_step9 q.1 q.2) n p

theorem step4_iterate_eq_self_iff {r : Reg4} (h : r ≠ 0) (n : Nat) : step4^[n] r = r ↔ 15 ∣ n := by
  rw [ne_eq, reg4_eq_zero_iff] at h
  rw [← BitVec.toNat_inj, step4_iterate_toNat]
  exact maximalLength_lfsr4.iterate_eq_self_iff (by omega) n

/-- Settles O45: each step is its `lfsr`, whose cycle holds every non-zero value. -/
theorem lfsrPeriods : Obligations.LfsrPeriods := by
  refine ⟨fun r n h => step4_iterate_eq_self_iff h n, by decide, fun r n h => ?_, fun p n h => ?_⟩
  · rw [step5_iterate_low]
    exact maximalLength_lfsr5.iterate_eq_self_iff (by omega) n
  · rw [jointValue_firings_step9]
    have joint_le : jointValue p ≤ 511 := by rw [jointValue]; omega
    exact maximalLength_lfsr9.iterate_eq_self_iff (by omega) n

/-! ### The gates over a cycle of STEP5 (R96) -/

/-- The low five bits of P5, counted from `reg5 = 0`. -/
theorem step5_iterate_zero_low (n : Nat) : (step5^[n + 1] 0).toNat % 32 = (lfsr 5 4 2)^[n % 31] 1 := by
  rw [step5_iterate_low]
  exact maximalLength_lfsr5.iterate_succ_zero n

theorem gate31_eq_of_low (v : Reg5) : gate31 v = decide (v.toNat % 32 % 16 = 8) := by
  rw [gate31_eq, Nat.mod_mod_of_dvd _ (by decide)]

theorem gateB4_eq_of_low (v : Reg5) : gateB4 v = decide (v.toNat % 32 / 16 = 1) := by
  rw [gateB4_eq, decide_eq_decide]
  omega

/-- Counted from `reg5 = 0`, the firings at which GATE31 is open. -/
theorem gate31_iterate_zero_iff (n : Nat) : gate31 (step5^[n] 0) = true ↔ n % 31 = 17 ∨ n % 31 = 30 := by
  cases n with
  | zero => decide
  | succ n =>
    have open_at : ∀ k < 31, (lfsr 5 4 2)^[k] 1 % 16 = 8 ↔ k = 16 ∨ k = 29 := by decide
    rw [gate31_eq_of_low, decide_eq_true_iff, step5_iterate_zero_low, open_at _ (Nat.mod_lt n (by decide))]
    omega

theorem step5_iterate_zero_low_at_17 (n : Nat) : (step5^[31 * n + 17] 0).toNat % 32 = 0x18 := by
  rw [step5_iterate_zero_low, show (31 * n + 16) % 31 = 16 by omega]
  rfl

theorem step5_iterate_zero_low_at_30 (n : Nat) : (step5^[31 * n + 30] 0).toNat % 32 = 0x08 := by
  rw [step5_iterate_zero_low, show (31 * n + 29) % 31 = 29 by omega]
  rfl

/-- A gate that looks at the low five bits is open in 31 firings as often as it is on `1..31`. -/
theorem opensIn31_eq_card {gate : Reg5 → Bool} (p : Nat → Bool) (h : ∀ v, gate v = p (v.toNat % 32)) (r5 : Reg5) :
    opensIn31 gate r5 = ((Finset.Icc 1 31).filter fun i => p i).card := by
  have first_low : 0 < (step5 r5).toNat % 32 ∧ (step5 r5).toNat % 32 ≤ 31 := by
    rw [step5_low]
    exact maximalLength_lfsr5.apply_mem (by omega)
  rw [← maximalLength_lfsr5.length_filter_period first_low, opensIn31]
  simp only [Function.iterate_succ_apply, h, step5_iterate_low]

theorem opensIn31_gate31 (r5 : Reg5) : opensIn31 gate31 r5 = 2 :=
  (opensIn31_eq_card (fun i => decide (i % 16 = 8)) gate31_eq_of_low r5).trans (by decide)

theorem opensIn31_gateB4 (r5 : Reg5) : opensIn31 gateB4 r5 = 16 :=
  (opensIn31_eq_card (fun i => decide (i / 16 = 1)) gateB4_eq_of_low r5).trans (by decide)

/-- Settles O46: the firings of one cycle of STEP5 from 1, and the gates over it from any value. -/
theorem gatePulseFirings : Obligations.GatePulseFirings :=
  ⟨gate31_iterate_zero_iff, fun n => ⟨step5_iterate_zero_low_at_17 n, step5_iterate_zero_low_at_30 n⟩,
    fun r5 => ⟨opensIn31_gate31 r5, opensIn31_gateB4 r5⟩⟩

end Sys2Proof.Machine
end

section
/-! The modes whose rule names P4 only (R100, R101, R104, R112): P5 is kept, and P4 is the iterate of FILL1, STEP4, DIV2
or DIV6. O31, O32, O35 and O41. -/

namespace Sys2Proof.Machine

theorem firings_succ (rule : Reg4 → Reg5 → Reg4 × Reg5) (n : Nat) (p : Reg4 × Reg5) :
    firings rule (n + 1) p = rule (firings rule n p).1 (firings rule n p).2 :=
  Function.iterate_succ_apply' _ n p

/-- Firings of a rule that names P4 only. -/
theorem firings_p4 (g : Reg4 → Reg4) (n : Nat) (r4 : Reg4) (r5 : Reg5) :
    firings (fun r4 r5 => (g r4, r5)) n (r4, r5) = (g^[n] r4, r5) := by
  induction n with
  | zero => rfl
  | succ n ih => rw [firings_succ, ih, Function.iterate_succ_apply']

/-- Settles O31: P4 is full from the fourth firing, whatever P5 holds. -/
theorem mode0Firing : Obligations.Mode0Firing := by
  refine ⟨rfl, firesAs_decodeMode 0, nextSampleApplies_fire 0, fun r4 r5 n hn => ?_, rfl⟩
  have audible : audibleOf 0xF = true := by decide
  rw [firings_p4, fill1_iterate r4 hn]
  exact ⟨rfl, audible⟩

/-- Settles O32: P4 runs through STEP4's cycle, whatever P5 holds. -/
theorem mode1Firing : Obligations.Mode1Firing := by
  refine ⟨rfl, firesAs_decodeMode 1, nextSampleApplies_fire 1, fun _ => rfl, fun r4 r5 n _ h => ?_, fun r5 => ?_,
    fun _ => rfl⟩
  · rw [firings_p4, Prod.mk.injEq, step4_iterate_eq_self_iff h]
    exact and_iff_left rfl
  · simp only [firings_p4]
    decide

/-- Settles O35: P4 has alternating bits from the third firing, and DIV2 toggles them. -/
theorem mode4Firing : Obligations.Mode4Firing := by
  refine ⟨rfl, firesAs_decodeMode 4, nextSampleApplies_fire 4, fun r4 r5 n hn => ?_, fun r5 => ?_, fun _ => rfl⟩
  · rw [firings_p4, firings_p4]
    exact ⟨div2_iterate r4 hn, audibleOf_div2_iterate r4 hn⟩
  · simp only [firings_p4]
    decide

/-! ### DIV6 -/

/-- The cycle of three values of AS_WRITTEN (R94, R112). -/
def div6Cycle : List Reg4 := [0x1, 0xC, 0x7]

/-- On the cycle DIV6 has period 3, and its three audible bits are not all the same. -/
theorem div6_of_mem_cycle : ∀ r ∈ div6Cycle,
    (div6 .asWritten)^[3] r = r ∧ ¬ (audibleOf r = audibleOf (div6 .asWritten r) ∧
      audibleOf (div6 .asWritten r) = audibleOf ((div6 .asWritten)^[2] r)) := by decide

theorem div6_iterate_mem_cycle {r : Reg4} (hr : r ∉ [0x5#4, 0xA, 0x2, 0xD]) {n : Nat} (h : 4 ≤ n) :
    (div6 .asWritten)^[n] r ∈ div6Cycle := by
  have reached : ∀ r : Reg4, r ∉ [0x5#4, 0xA, 0x2, 0xD] → (div6 .asWritten)^[4] r ∈ div6Cycle := by decide
  have kept : ∀ r ∈ div6Cycle, div6 .asWritten r ∈ div6Cycle := by decide
  exact iterate_settled (reached r hr) kept h

/-- The fixed points 0x5 and 0xA of AS_WRITTEN, and the two values that lead to them. -/
theorem div6_fixed : ∀ r ∈ [0x5#4, 0xA, 0x2, 0xD],
    div6 .asWritten (div6 .asWritten r) = div6 .asWritten r ∧ div6 .asWritten r ∈ [0x5#4, 0xA#4] := by decide

/-- The other two variants have period 6 from the fourth firing. -/
theorem div6_iterate_six {v : Div6Variant} (hv : v ≠ .asWritten) (r : Reg4) {n : Nat} (h : 4 ≤ n) :
    (div6 v)^[6] ((div6 v)^[n] r) = (div6 v)^[n] r := by
  have reached : ∀ r : Reg4, (div6 v)^[6] ((div6 v)^[4] r) = (div6 v)^[4] r := by
    cases v with
    | asWritten => exact absurd rfl hv
    | negatedFeedback => decide
    | twistedRing => decide
  exact iterate_settled (P := fun r => (div6 v)^[6] r = r) (reached r)
    (fun _ periodic => Function.IsPeriodicPt.apply (n := 6) periodic) h

/-- Settles O41: under AS_WRITTEN all values but four reach the cycle, and those four a fixed point. -/
theorem mode12Firing : Obligations.Mode12Firing := by
  refine ⟨rfl, firesAs_decodeMode 12, nextSampleApplies_fire 12, fun r4 hr n hn => ?_, fun r4 hr n hn => ?_,
    fun v hv r4 n hn => ?_, fun v => ?_, rfl, rfl, rfl⟩
  · obtain ⟨period, not_constant⟩ := div6_of_mem_cycle _ (div6_iterate_mem_cycle hr hn)
    rw [Nat.add_comm n 3, Nat.add_comm n 1, Nat.add_comm n 2, Function.iterate_add_apply _ 3,
      Function.iterate_add_apply _ 1, Function.iterate_add_apply _ 2]
    exact ⟨period, not_constant⟩
  · obtain ⟨fixed, value⟩ := div6_fixed r4 hr
    obtain ⟨k, rfl⟩ := Nat.exists_eq_add_of_le' hn
    exact ⟨Function.iterate_fixed fixed k, value⟩
  · rw [Nat.add_comm n 6, Function.iterate_add_apply]
    exact div6_iterate_six hv r4 hn
  · cases v <;> decide

end Sys2Proof.Machine
end

section
/-! The modes whose rule steps P5 (R102, R103, R106 to R110, R114, R115). Behind GATE31, counted from `reg5 = 0`, P4
moves at firings 17 and 30 of every 31, so it is a function of the number of these pulses. O33, O34, O36 to O40, O42
and O43. -/

namespace Sys2Proof.Machine

/-! ### Firings of a rule that steps P5 -/

/-- P5 is updated by STEP5, and a closed GATE31 leaves P4 as it is (R81, R92). -/
structure Gate31Rule (rule : Reg4 → Reg5 → Reg4 × Reg5) : Prop where
  steps : ∀ r4 r5, (rule r4 r5).2 = step5 r5
  closed : ∀ r4 r5, ¬ gate31 (step5 r5) = true → (rule r4 r5).1 = r4

theorem firings_snd {rule : Reg4 → Reg5 → Reg4 × Reg5} (steps : ∀ r4 r5, (rule r4 r5).2 = step5 r5) (n : Nat)
    (p : Reg4 × Reg5) : (firings rule n p).2 = step5^[n] p.2 := by
  induction n with
  | zero => rfl
  | succ n ih => rw [firings_succ, steps, ih, Function.iterate_succ_apply']

/-- How often GATE31 has been open in the first `n` firings from `reg5 = 0`: at 17, 30, 48, 61, … (R96). -/
def pulses (n : Nat) : Nat := (n + 14) / 31 + (n + 1) / 31

theorem pulses_succ (n : Nat) :
    pulses (n + 1) = if gate31 (step5 (step5^[n] 0)) = true then pulses n + 1 else pulses n := by
  rw [← Function.iterate_succ_apply' step5, pulses, pulses]
  split
  · next h => rw [gate31_iterate_zero_iff] at h; omega
  · next h => rw [gate31_iterate_zero_iff] at h; omega

/-- P4 after `n` firings from `reg5 = 0` is `b` of the number of pulses, where `b k` is P4 after `k` pulses. -/
theorem firings_gate31 {rule : Reg4 → Reg5 → Reg4 × Reg5} (hrule : Gate31Rule rule) (b : Nat → Reg4)
    (pulse : ∀ n, gate31 (step5 (step5^[n] 0)) = true → (rule (b (pulses n)) (step5^[n] 0)).1 = b (pulses n + 1))
    (n : Nat) : (firings rule n (b 0, 0)).1 = b (pulses n) := by
  induction n with
  | zero => rfl
  | succ n ih =>
    rw [firings_succ, ih, firings_snd hrule.steps, pulses_succ]
    split
    · next h => exact pulse n h
    · next h => exact hrule.closed _ _ h

/-- The rules that apply `g` to P4 behind GATE31: modes 2, 6 and 14. -/
theorem gate31Rule_apply (g : Reg4 → Reg4) :
    Gate31Rule (fun r4 r5 => (if gate31 (step5 r5) then g r4 else r4, step5 r5)) where
  steps _ _ := rfl
  closed _ _ h := if_neg h

theorem firings_gate31_apply (g : Reg4 → Reg4) (n : Nat) (r4 : Reg4) :
    (firings (fun r4 r5 => (if gate31 (step5 r5) then g r4 else r4, step5 r5)) n (r4, 0)).1 = g^[pulses n] r4 :=
  firings_gate31 (gate31Rule_apply g) (fun k => g^[k] r4)
    (fun _ h => (if_pos h).trans (Function.iterate_succ_apply' g _ r4).symm) n

/-- No pulse in the first 16 firings. -/
theorem pulses_of_le {n : Nat} (h : n ≤ 16) : pulses n = 0 := by
  rw [pulses]
  omega

/-! ### P4 behind GATE31 -/

/-- Settles O33: STEP4 has not moved P4 before the first pulse, which is firing 17, and injects 1 there. -/
theorem mode2Firing : Obligations.Mode2Firing := by
  refine ⟨rfl, firesAs_decodeMode 2, nextSampleApplies_fire 2, fun n hn => ?_, ?_, opensIn31_gate31,
    fun _ h => if_pos h, rfl, rfl⟩
  · rw [firings_gate31_apply, pulses_of_le hn]
    rfl
  · rw [firings_gate31_apply]
    rfl

/-- DIV2 from 0: an odd number of pulses leaves 0x5 and an even one 0xA, from the third on. -/
theorem div2_iterate_zero {k : Nat} (h : 3 ≤ k) : div2^[k] 0 = if k % 2 = 0 then 0xA else 0x5 := by
  induction k, h using Nat.le_induction with
  | base => rfl
  | succ k _ ih =>
    rw [Function.iterate_succ_apply', ih]
    rcases Nat.mod_two_eq_zero_or_one k with even | odd
    · rw [if_pos even, if_neg (by omega)]; rfl
    · rw [if_neg (by omega), if_pos (by omega)]; rfl

/-- Settles O36: the audible bit is set after an even number of pulses. -/
theorem mode6Firing : Obligations.Mode6Firing := by
  refine ⟨rfl, firesAs_decodeMode 6, nextSampleApplies_fire 6, fun n hn => ?_, ?_, fun r4 => ?_,
    fun r4 r5 settled gate_open => ?_, fun n hn => ?_, rfl, rfl⟩
  · rw [firings_gate31_apply, pulses_of_le hn]
    rfl
  · rw [firings_gate31_apply]
    rfl
  · exact div2_iterate r4 (le_refl 3)
  · dsimp only
    rw [if_pos gate_open]
    exact ⟨div2_alternating settled, audibleOf_div2 settled⟩
  · have three_pulses : 3 ≤ pulses n := by rw [pulses]; omega
    have even_iff : pulses n % 2 = 0 ↔ 61 ≤ n ∧ (n - 61) % 31 < 18 := by rw [pulses]; omega
    rw [firings_gate31_apply, div2_iterate_zero three_pulses, ← even_iff]
    split
    · next even => exact iff_of_true (by decide) even
    · next odd => exact iff_of_false (by decide) odd

/-- P4 of MODE10 after `k` pulses: P5 bit 4 is 1 at the odd pulses and 0 at the even ones (R110). -/
def mode10P4 (r4 : Reg4) : Nat → Reg4
  | 0 => r4
  | k + 1 => shiftIn 4 (mode10P4 r4 k) (decide (k % 2 = 0))

/-- Four pulses replace all of P4 by their alternating bits. -/
theorem mode10P4_eq (r4 : Reg4) {k : Nat} (h : 4 ≤ k) : mode10P4 r4 k = if k % 2 = 0 then 0xA else 0x5 := by
  have four_pulses : ∀ r4 : Reg4, mode10P4 r4 4 = 0xA := by decide
  induction k, h using Nat.le_induction with
  | base => exact four_pulses r4
  | succ k _ ih =>
    rw [mode10P4, ih]
    rcases Nat.mod_two_eq_zero_or_one k with even | odd
    · rw [if_pos even, if_neg (by omega), decide_eq_true even]; rfl
    · rw [if_neg (by omega), if_pos (by omega), decide_eq_false (by omega)]; rfl

/-- At a pulse, P5 bit 4 says which of the two firings of the cycle it is. -/
theorem getLsbD_four_of_pulse {n : Nat} (h : gate31 (step5 (step5^[n] 0)) = true) :
    (step5 (step5^[n] 0)).getLsbD 4 = decide (pulses n % 2 = 0) := by
  rw [← Function.iterate_succ_apply' step5] at h ⊢
  rw [show (step5^[n + 1] 0).getLsbD 4 = gateB4 (step5^[n + 1] 0) from rfl, gateB4_eq_of_low]
  have cycle := Nat.div_add_mod (n + 1) 31
  rcases (gate31_iterate_zero_iff (n + 1)).mp h with first | second
  · rw [← cycle, first, step5_iterate_zero_low_at_17, decide_eq_decide, pulses]
    omega
  · rw [← cycle, second, step5_iterate_zero_low_at_30, decide_eq_decide, pulses]
    omega

theorem firings_mode10Rule (n : Nat) (r4 : Reg4) : (firings mode10Rule n (r4, 0)).1 = mode10P4 r4 (pulses n) := by
  refine firings_gate31 ⟨fun _ _ => rfl, fun _ _ h => if_neg h⟩ (mode10P4 r4) (fun n h => ?_) n
  rw [mode10P4, ← getLsbD_four_of_pulse h]
  exact if_pos h

/-- Settles O40: P4 is `mode10P4` of the number of pulses, hence alternating bits from the fourth pulse, firing 61. -/
theorem mode10Firing : Obligations.Mode10Firing := by
  refine ⟨rfl, firesAs_decodeMode 10, nextSampleApplies_fire 10, fun r4 n => ?_, fun r4 n hn => ?_, rfl, rfl⟩
  · rw [firings_snd fun _ _ => rfl, firings_snd fun _ _ => rfl]
    exact ⟨step5_iterate_zero_low_at_17 n, step5_iterate_zero_low_at_30 n⟩
  · have four_pulses : 4 ≤ pulses n := by rw [pulses]; omega
    have even_iff : pulses n % 2 = 0 ↔ (n - 61) % 31 < 18 := by rw [pulses]; omega
    change audibleOf (firings mode10Rule n (r4, 0)).1 = true ↔ _
    rw [firings_mode10Rule, mode10P4_eq r4 four_pulses, ← even_iff]
    split
    · next even => exact iff_of_true (by decide) even
    · next odd => exact iff_of_false (by decide) odd

/-- Settles O42: DIV6 behind GATE31. -/
theorem mode14Firing : Obligations.Mode14Firing :=
  ⟨rfl, firesAs_decodeMode 14, nextSampleApplies_fire 14, opensIn31_gate31, rfl, rfl⟩

/-! ### P4 behind GATEB4 -/

/-- Settles O34: from reset STEP5 first sets bit 4 at firing 5. -/
theorem mode3Firing : Obligations.Mode3Firing := by
  refine ⟨rfl, firesAs_decodeMode 3, nextSampleApplies_fire 3, ?_⟩
  decide

/-- DIV2 shifts in the complement of bit 0, so that bit always changes. -/
theorem div2_ne_self (r : Reg4) : div2 r ≠ r := by
  intro h
  have bit0 : (div2 r).getLsbD 0 = r.getLsbD 0 := congrArg (BitVec.getLsbD · 0) h
  rw [div2, shiftIn_getLsbD] at bit0
  simp at bit0

/-- Settles O37: P4 changes exactly when the gate is open, since DIV2 has no fixed point. -/
theorem mode7Firing : Obligations.Mode7Firing := by
  refine ⟨rfl, firesAs_decodeMode 7, nextSampleApplies_fire 7, fun r4 r5 => ?_, opensIn31_gateB4, rfl, rfl⟩
  dsimp only
  split
  · next gate_open => exact iff_of_true (div2_ne_self r4) gate_open
  · next closed => exact iff_of_false (not_not_intro rfl) closed

/-- Settles O43: DIV6 behind GATEB4. -/
theorem mode15Firing : Obligations.Mode15Firing :=
  ⟨rfl, firesAs_decodeMode 15, nextSampleApplies_fire 15, opensIn31_gateB4, rfl, rfl⟩

/-! ### The rules that shift a bit of P5 into P4 -/

/-- R108's pseudocode, with the joint zero test written on the two registers. -/
theorem step9_eq (r4 : Reg4) (r5 : Reg5) :
    step9 r4 r5 =
      let n5 : Reg5 := if r5.toNat % 32 = 0 ∧ r4 = 0 then 1 else shiftIn 6 r5 (r4.getLsbD 3 ^^ r5.getLsbD 4)
      (shiftIn 4 r4 (n5.getLsbD 5), n5) := by
  have snd_eq : (step9 r4 r5).2 =
      if r5.toNat % 32 = 0 ∧ r4 = 0 then 1 else shiftIn 6 r5 (r4.getLsbD 3 ^^ r5.getLsbD 4) := by
    rw [step9_snd, ite_not]
    exact if_congr (jointValue_eq_zero_iff r4 r5) rfl rfl
  exact Prod.ext (by rw [step9_fst, snd_eq]) snd_eq

/-- Settles O38: STEP9 as R108 writes it. -/
theorem mode8Firing : Obligations.Mode8Firing := by
  refine ⟨rfl, ?_, firesAs_decodeMode 8, nextSampleApplies_fire 8, by decide⟩
  simp only [← step9_eq]
  exact firesAs_decodeMode 8

theorem mode9Rule_fst (r4 : Reg4) (r5 : Reg5) : (mode9Rule r4 r5).1 = shiftIn 4 r4 (r5.getLsbD 4) := by
  rw [← step5_getLsbD_five]
  rfl

/-- A firing of MODE9 moves a bit of P4 one place up. -/
theorem mode9Rule_fst_getLsbD (p : Reg4 × Reg5) {k : Nat} (h : k < 3) :
    (mode9Rule p.1 p.2).1.getLsbD (k + 1) = p.1.getLsbD k := by
  rw [mode9Rule_fst, shiftIn_getLsbD, decide_eq_true (by omega : k + 1 < 4), Bool.true_and, if_neg k.succ_ne_zero,
    Nat.add_sub_cancel]

/-- The bit that MODE9 takes from P5 reaches the audible bit after three more firings. -/
theorem audibleOf_firings_mode9Rule (n : Nat) (p : Reg4 × Reg5) :
    audibleOf (firings mode9Rule (n + 4) p).1 = (firings mode9Rule n p).2.getLsbD 4 :=
  calc (firings mode9Rule (n + 4) p).1.getLsbD 3
      = (firings mode9Rule (n + 3) p).1.getLsbD 2 := by rw [firings_succ, mode9Rule_fst_getLsbD _ (by decide)]
    _ = (firings mode9Rule (n + 2) p).1.getLsbD 1 := by rw [firings_succ, mode9Rule_fst_getLsbD _ (by decide)]
    _ = (firings mode9Rule (n + 1) p).1.getLsbD 0 := by rw [firings_succ, mode9Rule_fst_getLsbD _ (by decide)]
    _ = (firings mode9Rule n p).2.getLsbD 4 := by rw [firings_succ, mode9Rule_fst, shiftIn_getLsbD]; rfl

/-- Settles O39: P4 is a delay line for bit 4 of P5. -/
theorem mode9Firing : Obligations.Mode9Firing := by
  refine ⟨rfl, firesAs_decodeMode 9, nextSampleApplies_fire 9, mode9Rule_fst,
    fun r4 r5 n => audibleOf_firings_mode9Rule n (r4, r5), fun r4 r5 h => ?_, rfl, rfl⟩
  have bit4 : r5.getLsbD 4 = false := getLsbD_four_of_low_eq (b := 0) h
  have injected : step5 r5 = 1 := step5_congr (b := 0) h
  refine Prod.ext ?_ injected
  rw [← bit4]
  exact mode9Rule_fst r4 r5

end Sys2Proof.Machine
end

section
/-! The SampleClock and the Mixer (R120 to R131): one tick of a channel on the numbers, ticks in a row, and the sample of the
advanced channels. O49, O50, O51, O54, O55, O56 and O58. -/

namespace Sys2Proof.Machine

/-! ### One tick of a channel (R120, R121) -/

theorem Channel.fires_iff (x : Channel) :
    x.fires = true ↔ x.counter.toNat = 0 ∨ x.counter.toNat = x.divide.toNat + 1 := by
  rw [Channel.fires, Bool.or_eq_true, beq_iff_eq, beq_iff_eq]

/-- A firing moves neither the counter nor the divisor, so the firing condition can be read behind it. -/
theorem Channel.tick_fires (v : Div6Variant) (x : Channel) : (x.tick v).fires = x.advanceDivider.fires := by
  rw [Channel.fires, Channel.fires, Channel.tick_counter, Channel.tick_divide, Channel.advanceDivider_divide]

theorem Channel.tick_sameConfig (v : Div6Variant) (x : Channel) : (x.tick v).SameConfig x :=
  ⟨x.tick_divide v, x.tick_mode v, x.tick_volume v⟩

theorem Channel.tick_counter_toNat (v : Div6Variant) (x : Channel) :
    (x.tick v).counter.toNat =
      if 2 * x.divide.toNat + 2 ≤ x.counter.toNat + 1 then 0 else x.counter.toNat + 1 := by
  rw [Channel.tick_counter, Channel.advanceDivider_counter_toNat]

theorem Channel.tick_regs (v : Div6Variant) (x : Channel) :
    ((x.tick v).reg4, (x.tick v).reg5) =
      if (x.tick v).fires = true then Machine.fire v x.mode x.reg4 x.reg5 else (x.reg4, x.reg5) := by
  rw [Channel.tick_fires]
  split
  · next fires => rw [Channel.tick_of_fires v fires]; rfl
  · next counts => rw [Channel.tick_of_not_fires v counts]; rfl

/-! ### One NEXT_SAMPLE -/

theorem execState_nextSample_ch (s : State) (i : ChannelIndex) :
    (execState .nextSample s).ch i = (s.ch i).tick s.div6Variant := execRequest_nextSample_ch s i

/-- Settles O49: the tick of each channel keeps its configuration and advances its divider. -/
theorem nextSampleAdvancesDividers : Obligations.NextSampleAdvancesDividers := by
  refine fun s => ⟨_, exec_eq_execState .nextSample s, ⟨rfl, rfl, rfl⟩, fun i => ?_⟩
  rw [execState_nextSample_ch]
  exact ⟨(s.ch i).tick_sameConfig _, (s.ch i).tick_counter_toNat _⟩

/-- Settles O50: O30's dispatch, read at every channel; a counter of 0 is no `divide + 1`, so the two conditions exclude
each other. -/
theorem nextSampleFiresChannels : Obligations.NextSampleFiresChannels := by
  refine fun s => ⟨_, exec_eq_execState .nextSample s, fun i => ⟨?_, ?_⟩⟩
  · obtain ⟨t, exec_eq, regs⟩ := nextSampleApplies_fire (s.ch i).mode s i rfl
    rwa [← execState_of_next exec_eq] at regs
  · rintro ⟨counter_zero, counter_succ⟩
    rw [counter_zero] at counter_succ
    exact absurd counter_succ (Nat.zero_ne_add_one _)

theorem sampleResponse_toInt (acc : Nat) : (sampleResponse acc).toInt = wrap16 acc := by
  rw [sampleResponse, BitVec.toInt_signExtend_of_le (by decide), sampleOf_toInt]

/-- `wrap16` is the signed 16-bit value congruent to its argument (R15). -/
theorem wrap16_spec (n : Nat) : -32768 ≤ wrap16 n ∧ wrap16 n ≤ 32767 ∧ (65536 : Int) ∣ (n : Int) - wrap16 n := by
  unfold wrap16
  split <;> omega

/-- Settles O51: the response is the sample of the advanced channels, and the mixer's sum is R127's. -/
theorem nextSampleRespondsMixedSample : Obligations.NextSampleRespondsMixedSample := by
  refine ⟨fun s => ⟨_, _, exec_eq_execState .nextSample s, rfl, ?_⟩, wrap16_spec⟩
  rw [sampleResponse_toInt, State.mixed_eq_sum]
  rfl

/-- Settles O54: the new divisor meets the old counter in the next tick. -/
theorem dividerAfterReconfigure : Obligations.DividerAfterReconfigure := by
  intro s c d m v hs
  obtain ⟨t, run_eq, ch_eq, -⟩ := configureInForceNextSample s c d m v hs
  have counter_eq : (t.ch c).counter.toNat =
      if 2 * d.toNat + 2 ≤ (s.ch c).counter.toNat + 1 then 0 else (s.ch c).counter.toNat + 1 := by
    rw [ch_eq, Channel.tick_counter_toNat]
  have divide_eq : (t.ch c).divide = d := by rw [ch_eq, Channel.tick_divide]
  refine ⟨t, run_eq, fun wraps => ?_, fun counts => ?_, ?_⟩
  · rw [if_pos wraps] at counter_eq
    exact ⟨BitVec.eq_of_toNat_eq counter_eq, (t.ch c).fires_iff.mpr (.inl counter_eq)⟩
  · rw [if_neg (Nat.not_le.mpr counts)] at counter_eq
    rw [Channel.fires_iff, counter_eq, divide_eq]
    exact ⟨rfl, by omega⟩
  · rw [counter_eq]
    split <;> omega

/-! ### Ticks in a row (R123) -/

theorem foldl_nextSample_ch (n : Nat) (s : State) (c : ChannelIndex) :
    ((List.replicate n Request.nextSample).foldl execRequest s).ch c = (Channel.tick s.div6Variant)^[n] (s.ch c) := by
  induction n generalizing s with
  | zero => rfl
  | succ n ih =>
    rw [List.replicate_succ, List.foldl_cons, ih, execRequest_nextSample_ch, Function.iterate_succ_apply]
    rfl

/-- The multiples of `k` are the numbers that are 0 or `k` modulo `2·k`. -/
theorem mod_two_mul_eq_zero_or_self_iff {k : Nat} (hk : 0 < k) (n : Nat) :
    n % (2 * k) = 0 ∨ n % (2 * k) = k ↔ k ∣ n := by
  rw [← Nat.dvd_mod_iff (Nat.dvd_mul_left k 2)]
  have below : n % (2 * k) < 2 * k := Nat.mod_lt n (by omega)
  refine ⟨?_, fun h => ?_⟩
  · rintro (h | h) <;> simp [h]
  · obtain ⟨q, hq⟩ := h
    have q_lt : q < 2 := Nat.lt_of_mul_lt_mul_left (a := k) (by omega)
    rw [hq]
    interval_cases q <;> simp

section Ticks

variable (v : Div6Variant) (x : Channel)

theorem Channel.iterate_tick_sameConfig (n : Nat) : ((Channel.tick v)^[n] x).SameConfig x := by
  induction n with
  | zero => exact ⟨rfl, rfl, rfl⟩
  | succ n ih =>
    obtain ⟨divide_eq, mode_eq, volume_eq⟩ := ih
    rw [Function.iterate_succ_apply']
    exact ⟨(Channel.tick_divide ..).trans divide_eq, (Channel.tick_mode ..).trans mode_eq,
      (Channel.tick_volume ..).trans volume_eq⟩

/-- At a constant divisor the counter counts modulo `2·divide + 2`. -/
theorem Channel.iterate_tick_counter (counter_zero : x.counter = 0) (n : Nat) :
    ((Channel.tick v)^[n] x).counter.toNat = n % (2 * x.divide.toNat + 2) := by
  induction n with
  | zero => rw [Nat.zero_mod]; exact congrArg BitVec.toNat counter_zero
  | succ n ih =>
    obtain ⟨divide_eq, -⟩ := x.iterate_tick_sameConfig v n
    have below := Nat.mod_lt n (by omega : 0 < 2 * x.divide.toNat + 2)
    rw [Function.iterate_succ_apply', Channel.tick_counter_toNat, divide_eq, ih, Nat.add_mod_eq_ite,
      Nat.mod_eq_of_lt (by omega : 1 < 2 * x.divide.toNat + 2)]
    split <;> omega

theorem Channel.iterate_tick_fires_iff (counter_zero : x.counter = 0) (n : Nat) :
    ((Channel.tick v)^[n] x).fires = true ↔ (x.divide.toNat + 1) ∣ n := by
  obtain ⟨divide_eq, -⟩ := x.iterate_tick_sameConfig v n
  rw [Channel.fires_iff, x.iterate_tick_counter v counter_zero, divide_eq,
    ← mod_two_mul_eq_zero_or_self_iff (Nat.succ_pos _), Nat.mul_add_one]

/-- A tick at a multiple of `divide + 1` is one firing more, as `n / (divide + 1)` counts them. -/
theorem Channel.iterate_tick_regs (counter_zero : x.counter = 0) (n : Nat) :
    (((Channel.tick v)^[n] x).reg4, ((Channel.tick v)^[n] x).reg5) =
      firings (Machine.fire v x.mode) (n / (x.divide.toNat + 1)) (x.reg4, x.reg5) := by
  induction n with
  | zero => rw [Nat.zero_div]; rfl
  | succ n ih =>
    obtain ⟨-, mode_eq, -⟩ := x.iterate_tick_sameConfig v n
    obtain ⟨reg4_eq, reg5_eq⟩ := Prod.ext_iff.mp ih
    have fires_iff := x.iterate_tick_fires_iff v counter_zero (n + 1)
    rw [Function.iterate_succ_apply'] at fires_iff
    rw [Function.iterate_succ_apply', Channel.tick_regs, Nat.succ_div]
    by_cases at_multiple : (x.divide.toNat + 1) ∣ n + 1
    · rw [if_pos (fires_iff.mpr at_multiple), if_pos at_multiple, firings_succ, mode_eq, ← reg4_eq, ← reg5_eq]
    · rw [if_neg (mt fires_iff.mp at_multiple), if_neg at_multiple]
      exact ih

end Ticks

/-- Settles O55: what n ticks do to one channel record, read in the run. -/
theorem firingEveryDividePlusOneTicks : Obligations.FiringEveryDividePlusOneTicks := by
  intro s c n hs counter_zero
  refine ⟨_, runRequests_eq s _ hs, ?_⟩
  rw [foldl_nextSample_ch]
  exact ⟨Channel.iterate_tick_counter _ _ counter_zero n, Channel.iterate_tick_fires_iff _ _ counter_zero n,
    Channel.iterate_tick_regs _ _ counter_zero n, Channel.iterate_tick_sameConfig _ _ n⟩

/-! ### The order of the channels (R126) -/

/-- Updating channels one after another, each once, updates each of them from what it held at the start. -/
theorem State.foldl_setCh_ch (f : Channel → Channel) {order : List ChannelIndex} (nodup : order.Nodup) (s : State)
    (c : ChannelIndex) :
    (order.foldl (fun u i => u.setCh i (f (u.ch i))) s).ch c = if c ∈ order then f (s.ch c) else s.ch c := by
  induction order generalizing s with
  | nil => rfl
  | cons i rest ih =>
    obtain ⟨i_notMem, rest_nodup⟩ := List.nodup_cons.mp nodup
    rw [List.foldl_cons, ih rest_nodup]
    by_cases hc : c = i
    · subst hc
      rw [if_neg i_notMem, if_pos List.mem_cons_self, State.ch_setCh_self]
    · rw [State.ch_setCh_ne _ _ _ _ hc]
      simp [hc]

/-- Settles O56: a permutation names every channel once. -/
theorem channelOrderImmaterial : Obligations.ChannelOrderImmaterial := by
  refine fun s order perm => ⟨_, exec_eq_execState .nextSample s, State.channels_ext fun c => ?_⟩
  rw [execState_nextSample_ch, State.foldl_setCh_ch _ (perm.nodup_iff.mpr (List.nodup_finRange 32)),
    if_pos (perm.mem_iff.mpr (List.mem_finRange c))]

/-! ### Silent channels (R130, R170) -/

theorem State.mixed_eq_sum_contribution (s : State) : s.mixed = ∑ i : ChannelIndex, (s.ch i).contribution := by
  simp only [Channel.contribution_eq, State.mixed_eq_sum]

theorem Channel.contribution_of_volume_zero {x : Channel} (h : x.volume = 0) : x.contribution = 0 := if_pos h

section Silent

variable {s t : State}

/-- A channel that differs contributes 0 in both states. -/
theorem State.AgreeWhereHeard.mixed_eq (h : s.AgreeWhereHeard t) : s.mixed = t.mixed := by
  obtain ⟨-, agree⟩ := h
  rw [State.mixed_eq_sum_contribution, State.mixed_eq_sum_contribution]
  refine Finset.sum_congr rfl fun i _ => ?_
  rcases agree i with same | ⟨silent_left, silent_right⟩
  · rw [same]
  · rw [Channel.contribution_of_volume_zero silent_left, Channel.contribution_of_volume_zero silent_right]

/-- A tick keeps a silent channel silent, and equal channels equal. -/
theorem State.AgreeWhereHeard.tickAll (h : s.AgreeWhereHeard t) : s.tickAll.AgreeWhereHeard t.tickAll := by
  obtain ⟨variant_eq, agree⟩ := h
  refine ⟨variant_eq, fun i => ?_⟩
  rw [State.tickAll_ch, State.tickAll_ch, Channel.tick_volume, Channel.tick_volume, variant_eq]
  exact (agree i).imp_left (congrArg _)

theorem State.AgreeWhereHeard.nextSample (h : s.AgreeWhereHeard t) (outcomes_eq : s.outcomes = t.outcomes) :
    (execRequest s .nextSample).AgreeWhereHeard (execRequest t .nextSample) ∧
      (execRequest s .nextSample).outcomes = (execRequest t .nextSample).outcomes := by
  refine ⟨h.tickAll, ?_⟩
  rw [execRequest_nextSample, execRequest_nextSample, h.tickAll.mixed_eq]
  exact congrArg (· ++ [_]) outcomes_eq

theorem State.AgreeWhereHeard.outcomes_foldl_nextSample (n : Nat) (h : s.AgreeWhereHeard t)
    (outcomes_eq : s.outcomes = t.outcomes) :
    ((List.replicate n Request.nextSample).foldl execRequest s).outcomes =
      ((List.replicate n Request.nextSample).foldl execRequest t).outcomes := by
  induction n generalizing s t with
  | zero => exact outcomes_eq
  | succ n ih =>
    obtain ⟨agree, same⟩ := h.nextSample outcomes_eq
    exact ih agree same

end Silent

/-- Settles O58: each NEXT_SAMPLE keeps the agreement and gives both states one more equal sample. -/
theorem silentChannelsUnheard : Obligations.SilentChannelsUnheard := by
  intro s t n hs ht agree outcomes_eq
  exact ⟨_, _, runRequests_eq s _ hs, runRequests_eq t _ ht, agree.outcomes_foldl_nextSample n outcomes_eq⟩

end Sys2Proof.Machine
end

section
/-! Requests and their outcomes (R140 to R146): what an instruction whose operands do not fit does, the one outcome of every
other command, and the step that takes a request. O10, O13, O9, O11 and O12. -/

namespace Sys2Proof.Machine

open Sys2Proof.Laws (opOf)

/-! ### Operands that do not fit (R142, R143) -/

theorem configureOperands_of_check {ch div mode vol : Nat} {e : RefuseReason}
    (h : (Instr.configure ch div mode vol).check = some e) : configureOperands ch div mode vol = .error e := by
  rw [configureOperands_eq]
  simp only [Instr.check, ← Nat.not_lt, ite_not] at h
  split_ifs at h ⊢ <;> cases h <;> rfl

/-- Both reads test their channel index alike, so this speaks of READ_AUDIBLE too. -/
theorem channelOperand_of_check {ch : Nat} {e : RefuseReason} (h : (Instr.readConfig ch).check = some e) :
    channelOperand ch = .error e := by
  simp only [Instr.check] at h
  split_ifs at h with out_of_range
  cases h
  exact channelOperand_of_ge out_of_range

/-- An instruction whose operands do not fit does nothing but report the first reason that applies (log 11). -/
theorem exec_of_check {i : Instr} {e : RefuseReason} (h : i.check = some e) (s : State) :
    exec i s = .next (s.refuse e) := by
  rcases Instr.mode_or_command i with
    ⟨m, rfl⟩ | rfl | ⟨ch, div, mode, vol, rfl⟩ | ⟨ch, rfl⟩ | ⟨ch, rfl⟩
  · exact absurd ((decodeMode_wellFormed m).symm.trans h) (by simp)
  · cases h
  · simp only [exec, execConfigure, configureOperands_of_check h]
  · simp only [exec, execReadConfig, channelOperand_of_check h]
  · simp only [exec, execReadAudible, channelOperand_of_check h]

/-! ### The outcome of a command (R66, R178) -/

/-- A command reports one outcome, a refusal only where its operands do not fit, and does not look at the outcomes reported
before it. -/
theorem exists_answer {i : Instr} (command : ∀ m, i ≠ decodeMode m) (s : State) :
    ∃ o, (i.WellFormed → o.isRefused = false) ∧
      ∀ os, execState i { s with outcomes := os } = { execState i s with outcomes := os ++ [o] } := by
  cases fits : i.check with
  | some e =>
    refine ⟨.refused e, fun wf => absurd (wf.symm.trans fits) (by simp), fun os => ?_⟩
    rw [execState_of_next (exec_of_check fits _), execState_of_next (exec_of_check fits s)]
    rfl
  | none =>
    rcases Instr.mode_or_command i with
      ⟨m, rfl⟩ | rfl | ⟨ch, div, mode, vol, rfl⟩ | ⟨ch, rfl⟩ | ⟨ch, rfl⟩
    · exact absurd rfl (command m)
    · exact ⟨.response (sampleResponse s.tickAll.mixed), fun _ => rfl, fun _ => rfl⟩
    · obtain ⟨hch, hdiv, hmode, hvol⟩ := Instr.wellFormed_configure_iff.mp fits
      refine ⟨.done, fun _ => rfl, fun os => ?_⟩
      rw [execState_of_next (exec_configure_of_fits _ hch hdiv hmode hvol),
        execState_of_next (exec_configure_of_fits s hch hdiv hmode hvol)]
      rfl
    · have hch := Instr.wellFormed_readConfig_iff.mp fits
      refine ⟨.response (configResponse ⟨ch, hch⟩ (s.ch ⟨ch, hch⟩)), fun _ => rfl, fun os => ?_⟩
      rw [execState_of_next (exec_readConfig _ ⟨ch, hch⟩), execState_of_next (exec_readConfig s ⟨ch, hch⟩)]
      rfl
    · have hch := Instr.wellFormed_readAudible_iff.mp fits
      refine ⟨.response (audibleResponse (s.ch ⟨ch, hch⟩)), fun _ => rfl, fun os => ?_⟩
      rw [execState_of_next (exec_readAudible _ ⟨ch, hch⟩), execState_of_next (exec_readAudible s ⟨ch, hch⟩)]
      rfl

/-! ### The outcome of a request -/

theorem acceptTyped_eq_of_ok {i j : Instr} (h : acceptTyped i = .ok j) : i = j := by
  unfold acceptTyped at h
  split at h
  · exact Except.ok.inj h
  · cases h

/-- A host can ask for a command only: the modes are reached through the channels (R55). -/
theorem Request.opOf_of_decode {r : Request} {i : Instr} (h : r.decode = .ok i) : ∃ op, opOf i = some op := by
  cases r with
  | word w => rcases decodeCommand_cases h with rfl | rfl | rfl | rfl <;> exact ⟨_, rfl⟩
  | nextSample | configure | readConfig | readAudible =>
    unfold Request.decode at h
    obtain rfl := acceptTyped_eq_of_ok h
    exact ⟨_, rfl⟩

theorem Request.accepted_of_ok {r : Request} {i : Instr} (h : r.decode = .ok i) : r.accepted = true := by
  rw [Request.accepted, h]

theorem Request.accepted_of_error {r : Request} {e : RefuseReason} (h : r.decode = .error e) : r.accepted = false := by
  rw [Request.accepted, h]

theorem execRequest_of_ok {r : Request} {i : Instr} (h : r.decode = .ok i) (s : State) :
    execRequest s r = execState i s := by
  rw [execRequest, h]

theorem execRequest_of_error {r : Request} {e : RefuseReason} (h : r.decode = .error e) (s : State) :
    execRequest s r = s.refuse e := by
  rw [execRequest, h]

/-- A request reports one outcome, a refusal exactly where it is refused, and does not look at the outcomes reported before
it. -/
theorem exists_requestAnswer (s : State) (r : Request) :
    ∃ o, o.isRefused = !r.accepted ∧
      ∀ os, execRequest { s with outcomes := os } r = { execRequest s r with outcomes := os ++ [o] } := by
  cases hd : r.decode with
  | ok i =>
    obtain ⟨op, isCommand⟩ := Request.opOf_of_decode hd
    obtain ⟨o, notRefused, answer⟩ := exists_answer (fun m => (decodeMode_ne_of_opOf isCommand m).symm) s
    refine ⟨o, ?_, fun os => ?_⟩
    · rw [notRefused (Request.decode_wellFormed hd), Request.accepted_of_ok hd, Bool.not_true]
    · rw [execRequest_of_ok hd, execRequest_of_ok hd, answer]
  | error e =>
    refine ⟨.refused e, ?_, fun os => ?_⟩
    · rw [Request.accepted_of_error hd]
      rfl
    · rw [execRequest_of_error hd, execRequest_of_error hd]
      rfl

theorem execRequest_div6Variant (s : State) (r : Request) : (execRequest s r).div6Variant = s.div6Variant := by
  cases hd : r.decode with
  | ok i => rw [execRequest_of_ok hd, execState_div6Variant]
  | error e => rw [execRequest_of_error hd]; rfl

/-! ### The step that takes a request -/

/-- Between commands a step executes the oldest request, refused or not, and takes it off the list (R47, R142). -/
theorem step_of_input_cons {s : State} {r : Request} {rest : List Request} (hf : s.firing = none)
    (hi : s.input = r :: rest) : step s = .next { execRequest s r with input := rest } := by
  rw [← step_request s r rest hf, ← hi]

/-- Settles O10: a step with nothing waiting changes nothing, and a request has one outcome. -/
theorem stepKeepsBetweenCommands : Obligations.StepKeepsBetweenCommands := by
  intro s t hf hstep
  cases hi : s.input with
  | nil =>
    obtain rfl : s = t := Host.Outcome.next.inj ((step_of_ready ⟨hf, hi⟩).symm.trans hstep)
    exact ⟨hf, rfl, ⟨[], (List.append_nil _).symm⟩, by simp [hi], by simp [hi]⟩
  | cons r rest =>
    obtain rfl := Host.Outcome.next.inj ((step_of_input_cons hf hi).symm.trans hstep)
    obtain ⟨o, -, answer⟩ := exists_requestAnswer s r
    have outcomes_eq : (execRequest s r).outcomes = s.outcomes ++ [o] := congrArg State.outcomes (answer s.outcomes)
    refine ⟨execRequest_firing s r hf, execRequest_div6Variant s r, ⟨[o], outcomes_eq⟩, rfl, ?_⟩
    simp only [outcomes_eq, List.length_append, List.length_cons, List.length_nil]
    omega

/-! ### Leaving out the refused requests (R142) -/

/-- Without its refused requests a run ends in the same state but for the outcomes, which it reports without the refusals,
behind whatever was reported before. -/
theorem foldl_execRequest_accepted (rs : List Request) (s : State) :
    ∃ os, (rs.foldl execRequest s).outcomes = s.outcomes ++ os ∧
      ∀ before, (rs.filter Request.accepted).foldl execRequest { s with outcomes := before } =
        { rs.foldl execRequest s with outcomes := before ++ os.filter (fun o => !o.isRefused) } := by
  induction rs generalizing s with
  | nil => exact ⟨[], (List.append_nil _).symm, fun before => by simp⟩
  | cons r rest ih =>
    obtain ⟨o, refused_eq, answer⟩ := exists_requestAnswer s r
    have outcomes_eq : (execRequest s r).outcomes = s.outcomes ++ [o] := congrArg State.outcomes (answer s.outcomes)
    obtain ⟨os, run_outcomes, run_accepted⟩ := ih (execRequest s r)
    refine ⟨o :: os, ?_, fun before => ?_⟩
    · rw [List.foldl_cons, run_outcomes, outcomes_eq, List.append_assoc, List.singleton_append]
    · cases hd : r.decode with
      | ok i =>
        have accepted := Request.accepted_of_ok hd
        rw [List.filter_cons_of_pos accepted, List.foldl_cons, answer, run_accepted, List.foldl_cons,
          List.filter_cons_of_pos (by rw [refused_eq, accepted]; rfl), List.append_assoc, List.singleton_append]
      | error e =>
        have refused := Request.accepted_of_error hd
        have unchanged : ({ s with outcomes := before } : State) = { execRequest s r with outcomes := before } := by
          rw [execRequest_of_error hd]
          rfl
        rw [List.filter_cons_of_neg (by simp [refused]), unchanged, run_accepted, List.foldl_cons,
          List.filter_cons_of_neg (by simp [refused_eq, refused])]

/-- Settles O13: both runs as folds over their requests. -/
theorem refusedRequestsTransparent : Obligations.RefusedRequestsTransparent := by
  intro s rs hs
  obtain ⟨os, run_outcomes, run_accepted⟩ := foldl_execRequest_accepted rs s
  have accepted_eq : (rs.filter Request.accepted).foldl execRequest s = _ := run_accepted s.outcomes
  exact ⟨_, _, runRequests_eq s rs hs, runRequests_eq s _ hs, by rw [accepted_eq], os, run_outcomes, by rw [accepted_eq]⟩

/-! ### Completion (R140) -/

theorem audibleResponse_eq_ite (c : Channel) : audibleResponse c = if c.reg4.getLsbD 3 then 1 else 0 := by
  rw [audibleResponse_eq]
  cases c.reg4.getLsbD 3 <;> rfl

/-- Settles O9: the responses of the four commands, then completion of every instruction, step and run. -/
theorem everyCommandCompletes : Obligations.EveryCommandCompletes := by
  refine ⟨fun s => ⟨?_, ?_, ?_, ?_⟩, nofun, fun i s => ⟨_, exec_eq_execState i s⟩, ?_, ?_,
    fun s rs hs => ⟨_, runRequests_eq s rs hs⟩⟩
  · exact ⟨_, _, exec_eq_execState .nextSample s, rfl, sampleResponse_toInt s.tickAll.mixed⟩
  · exact fun ch div mode vol hch hdiv hmode hvol => ⟨_, exec_configure_of_fits s hch hdiv hmode hvol, rfl⟩
  · exact fun c => ⟨_, _, exec_readConfig s c, rfl, decodeCommand_configResponse c (s.ch c)⟩
  · refine fun c => ⟨_, exec_readAudible s c, ?_⟩
    rw [State.respond_eq, State.report_outcomes, audibleResponse_eq_ite]
  · intro i s command
    obtain ⟨o, notRefused, answer⟩ := exists_answer command s
    exact ⟨_, o, exec_eq_execState i s, congrArg State.outcomes (answer s.outcomes), notRefused⟩
  · intro s hf waiting
    obtain ⟨r, rest, hi⟩ := List.exists_cons_of_ne_nil waiting
    exact ⟨_, step_of_input_cons hf hi⟩

/-! ### Refusals (R142, R143) -/

/-- Settles O11: the step that takes a refused request is `State.refuse`. -/
theorem refusedRequestChangesNothing : Obligations.RefusedRequestChangesNothing := by
  intro s r rest e hf hi hd
  refine ⟨_, step_of_input_cons hf hi, ?_⟩
  rw [execRequest_of_error hd]
  exact ⟨rfl, hf, rfl, rfl, rfl⟩

/-- A word has no operand that could not fit its field (R65). -/
theorem eq_reservedBits_of_decodeCommand {w : Word} {e : RefuseReason} (h : decodeCommand w = .error e) :
    e = .reservedBits := by
  unfold decodeCommand at h
  split_ifs at h <;> cases h <;> rfl

/-- Settles O12: the typed boundary tests the operands in R143's order, and `exec` refuses what it refuses. -/
theorem refusalReasonOrder : Obligations.RefusalReasonOrder := by
  refine ⟨fun ch div mode vol => ?_, fun ch => ?_, fun ch => ?_, rfl,
    fun _ _ => eq_reservedBits_of_decodeCommand,
    fun i e s h => ⟨_, exec_of_check h s, rfl, s.sameInterface_report (.refused e), rfl⟩⟩
  all_goals
    simp only [Request.decode, acceptTyped, Instr.check, Nat.lt_iff_add_one_le]
    split_ifs <;> rfl

end Sys2Proof.Machine
end

section
/-! Runs and resets (R165 to R179): a run can be cut in two, a silent machine samples zeros, and what RESET_MODE set is
overwritten or unheard. O59, O14 and O17. -/

namespace Sys2Proof.Machine

/-! ### CONFIGUREs before the first NEXT_SAMPLE (R170) -/

/-- A CONFIGURE request is refused exactly as its command would be, so the typed boundary makes no difference (log 11). -/
theorem execRequest_configure_eq_execState (s : State) (ch div mode vol : Nat) :
    execRequest s (.configure ch div mode vol) = execState (.configure ch div mode vol) s := by
  cases fits : (Instr.configure ch div mode vol).check with
  | none =>
    have accepted : (Request.configure ch div mode vol).decode = .ok (.configure ch div mode vol) :=
      acceptTyped_of_wellFormed fits
    exact execRequest_of_ok accepted s
  | some e =>
    have refused : (Request.configure ch div mode vol).decode = .error e := by
      rw [Request.decode, acceptTyped, fits]
    rw [execRequest_of_error refused, execState_of_next (exec_of_check fits s)]

/-- CONFIGURE overwrites all that two records of the same counter and registers can differ in (R70). -/
theorem Channel.SameInternal.configured_eq {x y : Channel} (h : x.SameInternal y) (d : BitVec 5) (m : BitVec 4)
    (v : BitVec 16) : x.configured d m v = y.configured d m v := by
  obtain ⟨counter_eq, reg4_eq, reg5_eq⟩ := h
  simp only [Channel.configured, counter_eq, reg4_eq, reg5_eq]

/-- Two states that reported the same and differ at most in the configuration of channels silent in both: as two machines do
between reset and the first NEXT_SAMPLE, when they were reset with different modes (R170). -/
structure State.AgreeButSilentConfig (s t : State) : Prop where
  heard : s.AgreeWhereHeard t
  internal : ∀ i, (s.ch i).SameInternal (t.ch i)
  outcomes_eq : s.outcomes = t.outcomes

theorem State.AgreeButSilentConfig.report {s t : State} (h : s.AgreeButSilentConfig t) (o : CommandOutcome) :
    (s.report o).AgreeButSilentConfig (t.report o) where
  heard := h.heard
  internal := h.internal
  outcomes_eq := congrArg (· ++ [o]) h.outcomes_eq

/-- The channel that is configured becomes the same in both states, loud or silent. -/
theorem State.AgreeButSilentConfig.setCh_configured {s t : State} (h : s.AgreeButSilentConfig t) (c : ChannelIndex)
    (d : BitVec 5) (m : BitVec 4) (v : BitVec 16) :
    (s.setCh c ((s.ch c).configured d m v)).AgreeButSilentConfig (t.setCh c ((t.ch c).configured d m v)) := by
  obtain ⟨⟨variant_eq, agree⟩, internal, outcomes_eq⟩ := h
  refine ⟨⟨variant_eq, fun i => ?_⟩, fun i => ?_, outcomes_eq⟩
  all_goals
    rw [(internal c).configured_eq, State.ch_setCh, State.ch_setCh]
    split
  · exact .inl rfl
  · exact agree i
  · exact ⟨rfl, rfl, rfl⟩
  · exact internal i

/-- A CONFIGURE, refused or not, keeps the agreement. -/
theorem State.AgreeButSilentConfig.configure {s t : State} (h : s.AgreeButSilentConfig t) (ch div mode vol : Nat) :
    (execRequest s (.configure ch div mode vol)).AgreeButSilentConfig (execRequest t (.configure ch div mode vol)) := by
  rw [execRequest_configure_eq_execState, execRequest_configure_eq_execState]
  rcases execConfigure_cases ch div mode vol with ⟨o, -, exec_eq⟩ | ⟨r, -, exec_eq⟩
  all_goals rw [execState_of_next (exec_eq s), execState_of_next (exec_eq t)]
  · exact (h.setCh_configured o.ch o.divide o.mode o.volume).report .done
  · exact h.report (.refused r)

theorem State.AgreeButSilentConfig.foldl_configure (cfgs : List (Nat × Nat × Nat × Nat)) {s t : State}
    (h : s.AgreeButSilentConfig t) :
    ((cfgs.map fun q => Request.configure q.1 q.2.1 q.2.2.1 q.2.2.2).foldl execRequest s).AgreeButSilentConfig
      ((cfgs.map fun q => Request.configure q.1 q.2.1 q.2.2.1 q.2.2.2).foldl execRequest t) := by
  induction cfgs generalizing s t with
  | nil => exact h
  | cons q rest ih => exact ih (h.configure q.1 q.2.1 q.2.2.1 q.2.2.2)

/-- Reset with RESET_VOLUME 0 leaves every channel silent, with counter and registers 0 (R38). -/
theorem State.resetWith_agreeButSilentConfig {p : Params} (silent : p.resetVolume = 0) (a b : BitVec 4) :
    (State.resetWith { p with resetMode := a }).AgreeButSilentConfig (State.resetWith { p with resetMode := b }) := by
  refine ⟨⟨rfl, fun i => .inr ?_⟩, fun i => ?_, rfl⟩
  all_goals rw [State.resetWith_ch, State.resetWith_ch]
  · exact ⟨silent, silent⟩
  · exact ⟨rfl, rfl, rfl⟩

/-- Settles O59: the CONFIGUREs keep the agreement that reset establishes, and the NEXT_SAMPLEs then give the samples of two
states that agree where heard. -/
theorem samplesIndependentOfResetMode : Obligations.SamplesIndependentOfResetMode := by
  intro p a b cfgs n silent
  refine ⟨_, _, runRequests_eq _ _ (State.resetWith_ready _), runRequests_eq _ _ (State.resetWith_ready _), ?_⟩
  have configured := (State.resetWith_agreeButSilentConfig silent a b).foldl_configure cfgs
  rw [List.foldl_append, List.foldl_append]
  exact configured.heard.outcomes_foldl_nextSample n configured.outcomes_eq

/-! ### Runs in a row (R178, R179) -/

theorem foldl_execRequest_ready (rs : List Request) {s : State} (h : s.Ready) : (rs.foldl execRequest s).Ready :=
  ⟨foldl_execRequest_firing rs s h.1, (foldl_execRequest_input rs s).trans h.2⟩

theorem execRequest_outcomes_length (s : State) (r : Request) :
    (execRequest s r).outcomes.length = s.outcomes.length + 1 := by
  obtain ⟨o, -, answer⟩ := exists_requestAnswer s r
  have outcomes_eq : (execRequest s r).outcomes = s.outcomes ++ [o] := congrArg State.outcomes (answer s.outcomes)
  rw [outcomes_eq, List.length_append, List.length_singleton]

theorem foldl_execRequest_outcomes_length (rs : List Request) (s : State) :
    (rs.foldl execRequest s).outcomes.length = s.outcomes.length + rs.length := by
  induction rs generalizing s with
  | nil => rfl
  | cons r rest ih =>
    rw [List.foldl_cons, ih, execRequest_outcomes_length, List.length_cons]
    omega

/-- Settles O14: a run is a fold over its requests, and a fold over `as ++ bs` is the one over `bs` from where the one over
`as` ended. -/
theorem runsCompose : Obligations.RunsCompose := by
  intro s as bs hs
  have ready := foldl_execRequest_ready as hs
  refine ⟨_, _, runRequests_eq s as hs, ready, foldl_execRequest_outcomes_length as s, runRequests_eq _ bs ready, ?_⟩
  rw [runRequests_eq s _ hs, List.foldl_append]

/-! ### Right after reset (R168) -/

/-- Every volume is 0 (R130). -/
def State.Silent (s : State) : Prop := ∀ i, (s.ch i).volume = 0

theorem State.Silent.mixed_eq_zero {s : State} (h : s.Silent) : s.mixed = 0 := by
  rw [State.mixed_eq_sum_contribution]
  exact Finset.sum_eq_zero fun i _ => Channel.contribution_of_volume_zero (h i)

theorem State.Silent.tickAll {s : State} (h : s.Silent) : s.tickAll.Silent := by
  intro i
  rw [State.tickAll_ch, Channel.tick_volume, h i]

theorem State.Silent.execRequest_nextSample {s : State} (h : s.Silent) :
    execRequest s .nextSample = s.tickAll.report (.response 0) := by
  rw [Machine.execRequest_nextSample, h.tickAll.mixed_eq_zero]
  rfl

/-- A silent machine samples zeros, whatever its modes, divisors and registers. -/
theorem State.Silent.outcomes_foldl_nextSample (n : Nat) {s : State} (h : s.Silent) :
    ((List.replicate n Request.nextSample).foldl execRequest s).outcomes =
      s.outcomes ++ List.replicate n (.response 0) := by
  induction n generalizing s with
  | zero => exact (List.append_nil _).symm
  | succ n ih =>
    have silent : (s.tickAll.report (.response 0)).Silent := h.tickAll
    rw [List.replicate_succ, List.foldl_cons, h.execRequest_nextSample, ih silent, State.report_outcomes,
      List.append_assoc, List.singleton_append, List.replicate_succ]
    rfl

theorem State.resetWith_silent {p : Params} (silent : p.resetVolume = 0) : (State.resetWith p).Silent := by
  intro i
  rw [State.resetWith_ch]
  exact silent

/-- Settles O17: the reads find the channel record of R38, and the samples are those of a silent machine. -/
theorem afterReset : Obligations.AfterReset := by
  intro m i n s
  have ch_eq : s.ch i = Channel.resetWith { Config.params with resetMode := m } i := State.resetWith_ch _ i
  refine ⟨⟨_, exec_readAudible s i, ?_⟩, ⟨_, exec_readConfig s i, ?_⟩,
    ⟨_, runRequests_eq s _ (State.resetWith_ready _), (State.resetWith_silent rfl).outcomes_foldl_nextSample n⟩⟩
  · have reg4_eq : (s.ch i).reg4 = 0 := by rw [ch_eq]; rfl
    rw [State.respond_eq, State.report_outcomes, audibleResponse_eq_ite, reg4_eq]
    rfl
  · have divide_eq : (s.ch i).divide.toNat = i.val := by
      rw [ch_eq]
      exact Nat.mod_eq_of_lt i.isLt
    have mode_eq : (s.ch i).mode = m := by rw [ch_eq]; rfl
    have volume_eq : (s.ch i).volume = 0 := by rw [ch_eq]; rfl
    rw [State.respond_eq, State.report_outcomes, configResponse_eq_ofNat, divide_eq, mode_eq, volume_eq]
    rfl

end Sys2Proof.Machine
end
